-- ==== Sys2Proof/Word.lean ====
section
/-!
DEFINITION. The values the codec moves: occupants, metadata, positions and bit sequences.

A bit sequence of length `n` (00_scope.md R10) is a `BitVec n` read MOST SIGNIFICANT BIT FIRST: the first bit
`s⟨0⟩` is the most significant one. Then `nat(s)` of R11 is `BitVec.toNat`, `bin_n(x)` is `BitVec.ofNat n x`,
and `s ++ t` is `BitVec` append (`s` first).
-/

namespace Sys2Proof

/-- The two colours (10_state.md R20). -/
inductive Color where
  | white
  | black
deriving DecidableEq, Repr

/-- The six kinds of piece (10_state.md R20). -/
inductive PieceKind where
  | pawn
  | knight
  | bishop
  | rook
  | queen
  | king
deriving DecidableEq, Repr

/-- The content of a square: 13 values (10_state.md R20). -/
inductive Occupant where
  | empty
  | piece (kind : PieceKind) (color : Color)
deriving DecidableEq, Repr

/-- A square index 0..63, an opaque number to the hardware (20_memory.md R41). -/
abbrev Square := Fin 64

/-- The six named fields of a Position besides its squares (10_state.md R21). -/
structure Metadata where
  /-- the side to move -/
  turn : Color
  /-- white-kingside castling permission -/
  wk : Bool
  /-- white-queenside castling permission -/
  wq : Bool
  /-- black-kingside castling permission -/
  bk : Bool
  /-- black-queenside castling permission -/
  bq : Bool
  /-- the en-passant target, if there is one -/
  ep : Option Square
deriving DecidableEq, Repr

/-- A Position: seven fields, none validated (10_state.md R21, R22). -/
structure Position extends Metadata where
  /-- the 64 squares, by square index -/
  sq : Vector Occupant 64
deriving DecidableEq, Repr

/-- The metadata block read field by field, before any interpretation (30_encoding.md R80). -/
structure MetaFields where
  turn : BitVec 1
  wk : BitVec 1
  wq : BitVec 1
  bk : BitVec 1
  bq : BitVec 1
  ep : BitVec 6
deriving DecidableEq, Repr

/-- The length of a Bit Vector, `L = 64*W + 11` (00_scope.md R8, 10_state.md R23). -/
abbrev vecLen (W : Nat) : Nat := 64 * W + 11

end Sys2Proof
end

