-- ==== Sys2Proof/Config.lean ====
section
/-!
DEFINITION. What is fixed when an instance is built: the variant (its piece-code width `W`) and the type of a
Piece Code Table (00_scope.md R8, 10_state.md R33, R34). The default tables' values are in
Machine/PieceCodes.lean.
-/

namespace Sys2Proof

/-- The two variants (00_scope.md R2, R8). There is no run-time switch between them. -/
inductive Variant where
  | cmc4
  | cmc12
deriving DecidableEq, Repr

/-- The piece-code width `W` of a variant (00_scope.md R8). -/
def Variant.width : Variant → Nat
  | .cmc4 => 4
  | .cmc12 => 12

/-- A Piece Code Table of width `W`: an injective assignment of codes to the 13 occupants
(40_piece_code_table.md R110, R111 (a)). The parameter `PCT` of 00_scope.md R8. -/
structure PieceCodeTable (W : Nat) where
  codeFor : Occupant → BitVec W
  injective : ∀ a b, codeFor a = codeFor b → a = b

/-- Constraint (b) of 40_piece_code_table.md R111 on a 12-bit table: each piece's code has exactly one bit set. -/
def PieceCodeTable.OneHot (T : PieceCodeTable 12) : Prop :=
  ∀ k c, ∃ j : Fin 12, T.codeFor (.piece k c) = BitVec.twoPow 12 j.val

/-- The tables of a machine, one for each variant: the argument `PCT` of 00_scope.md R8. They meet the constraints of
40_piece_code_table.md R111 and nothing else is asked of them: (a) is in `PieceCodeTable`, (b) is `oneHot`, and (c) and
the rest of (b) follow from (a). The laws of 45_roundtrip_laws.md need (a) only, and are stated for a
`PieceCodeTable` alone (R193). -/
structure Tables where
  cmc4 : PieceCodeTable 4
  cmc12 : PieceCodeTable 12
  oneHot : cmc12.OneHot

/-- The table of a variant. -/
def Tables.of (T : Tables) : (v : Variant) → PieceCodeTable v.width
  | .cmc4 => T.cmc4
  | .cmc12 => T.cmc12

end Sys2Proof
end

