-- ==== Sys2Proof/Syntax.lean ====
section
/-!
DEFINITION. The instructions: one constructor for each of the 58 rows of spec/opcode_table.json.

Only ENCODE and DECODE can be requested by a host (30_encoding.md R72). The other rows are the internal functions
of the functional layer (00_scope.md R7) and the formats with their listed values (30_encoding.md R70); the model
can evaluate each of them on its own (log 6).
-/

namespace Sys2Proof

/-- The `POS` format: a Position as it is carried on the ports (30_encoding.md R73). -/
structure PosPorts where
  /-- `pos_sq[i][3:0]`, the occupant id of square i -/
  sq : Vector (BitVec 4) 64
  /-- `pos_turn` -/
  turn : BitVec 1
  /-- `pos_castle[3:0]`: bit 3 wk, bit 2 wq, bit 1 bk, bit 0 bq -/
  castle : BitVec 4
  /-- `pos_ep_some` -/
  epSome : BitVec 1
  /-- `pos_ep[5:0]` -/
  ep : BitVec 6
deriving DecidableEq, Repr

/-- The operand ports of a request (30_encoding.md R71). Both operations are presented with all of them;
which of them an operation reads is its meaning's matter. -/
structure ReqOperands (W : Nat) where
  /-- `req_pos_*` -/
  pos : PosPorts
  /-- `req_vec⟨0..L-1⟩` -/
  vec : BitVec (vecLen W)
  /-- `req_len[9:0]` -/
  len : BitVec 10
deriving DecidableEq, Repr

/-- One constructor per row of spec/opcode_table.json, in the table's order. -/
inductive Instr where
  /-- ENCODE: a request with `req_op = 0` (42_encode.md R150). -/
  | encode (v : Variant) (r : ReqOperands v.width)
  /-- DECODE: a request with `req_op = 1` (43_decode.md R160). -/
  | decode (v : Variant) (r : ReqOperands v.width)
  /-- CODE_FOR of an occupant id, in an instance of variant `v` (40_piece_code_table.md R119). -/
  | codeFor (v : Variant) (id : BitVec 4)
  /-- OCCUPANT_FOR.W4 (40_piece_code_table.md R120). -/
  | occupantForW4 (c : BitVec 4)
  /-- OCCUPANT_FOR.W12 (40_piece_code_table.md R120). -/
  | occupantForW12 (c : BitVec 12)
  /-- META_PACK of the metadata ports (41_metadata_block.md R130). -/
  | metaPack (turn : BitVec 1) (castle : BitVec 4) (epSome : BitVec 1) (ep : BitVec 6)
  /-- META_UNPACK of a block (41_metadata_block.md R131). -/
  | metaUnpack (m : BitVec 11)
  -- the occupant ids (30_encoding.md R74, R75)
  | occidEmpty
  | occidWhitePawn
  | occidWhiteKnight
  | occidWhiteBishop
  | occidWhiteRook
  | occidWhiteQueen
  | occidWhiteKing
  | occidBlackPawn
  | occidBlackKnight
  | occidBlackBishop
  | occidBlackRook
  | occidBlackQueen
  | occidBlackKing
  | occidReserved13
  | occidReserved14
  | occidReserved15
  -- the default 4-bit piece codes (40_piece_code_table.md R112, R115)
  | pc4Empty
  | pc4WhitePawn
  | pc4WhiteKnight
  | pc4WhiteBishop
  | pc4WhiteRook
  | pc4WhiteQueen
  | pc4WhiteKing
  | pc4BlackPawn
  | pc4BlackKnight
  | pc4BlackBishop
  | pc4BlackRook
  | pc4BlackQueen
  | pc4BlackKing
  | pc4Unassigned7
  | pc4Unassigned8
  | pc4UnassignedF
  -- the default 12-bit piece codes (40_piece_code_table.md R113, R116)
  | pc12Empty
  | pc12WhitePawn
  | pc12WhiteKnight
  | pc12WhiteBishop
  | pc12WhiteRook
  | pc12WhiteQueen
  | pc12WhiteKing
  | pc12BlackPawn
  | pc12BlackKnight
  | pc12BlackBishop
  | pc12BlackRook
  | pc12BlackQueen
  | pc12BlackKing
  /-- PC12.unassigned: any 12-bit pattern with two or more bits set. -/
  | pc12Unassigned (c : BitVec 12)
  /-- META: the metadata block as a format (30_encoding.md R80). -/
  | metaBlock (m : BitVec 11)
  /-- BV4: the Bit Vector of CMC-4 as a format (30_encoding.md R79). -/
  | bv4 (vec : BitVec 267)
  /-- BV12: the Bit Vector of CMC-12 as a format (30_encoding.md R79). -/
  | bv12 (vec : BitVec 779)
  /-- ERR_NONE (30_encoding.md R78). -/
  | errNone
  /-- ERR_LENGTH (60_exceptions.md R221). -/
  | errLength
deriving DecidableEq, Repr

end Sys2Proof
end

