-- ==== Sys2Proof/WellFormed.lean ====
section
/-!
DEFINITION. Which instructions an encoding can hold. Widths are in the operands' types; the one relation left is
the constraint of the row PC12.unassigned.
-/

namespace Sys2Proof

/-- Two or more bits of `c` are set: the constraint of the row PC12.unassigned (40_piece_code_table.md R113,
"Every other pattern (two or more bits set) is unassigned"). -/
def twoOrMoreBits (c : BitVec 12) : Bool := c &&& (c - 1) != 0

/-- An instruction an encoding can hold. -/
def Instr.WellFormed : Instr → Bool
  | .pc12Unassigned c => twoOrMoreBits c
  | .encode _ _ | .decode _ _ | .codeFor _ _ | .occupantForW4 _ | .occupantForW12 _
  | .metaPack _ _ _ _ | .metaUnpack _
  | .occidEmpty | .occidWhitePawn | .occidWhiteKnight | .occidWhiteBishop | .occidWhiteRook
  | .occidWhiteQueen | .occidWhiteKing | .occidBlackPawn | .occidBlackKnight | .occidBlackBishop
  | .occidBlackRook | .occidBlackQueen | .occidBlackKing
  | .occidReserved13 | .occidReserved14 | .occidReserved15
  | .pc4Empty | .pc4WhitePawn | .pc4WhiteKnight | .pc4WhiteBishop | .pc4WhiteRook | .pc4WhiteQueen
  | .pc4WhiteKing | .pc4BlackPawn | .pc4BlackKnight | .pc4BlackBishop | .pc4BlackRook | .pc4BlackQueen
  | .pc4BlackKing | .pc4Unassigned7 | .pc4Unassigned8 | .pc4UnassignedF
  | .pc12Empty | .pc12WhitePawn | .pc12WhiteKnight | .pc12WhiteBishop | .pc12WhiteRook | .pc12WhiteQueen
  | .pc12WhiteKing | .pc12BlackPawn | .pc12BlackKnight | .pc12BlackBishop | .pc12BlackRook | .pc12BlackQueen
  | .pc12BlackKing
  | .metaBlock _ | .bv4 _ | .bv12 _ | .errNone | .errLength => true

end Sys2Proof
end

