-- ==== Sys2Proof/Decode.lean ====
section
/-!
DEFINITION. Decoding and encoding of words.

Nothing in a word says which format it is in (30_encoding.md R70, "Nothing in any format says how long it is or
which variant it belongs to"); the port it arrives on does. So a word here carries its format. A request is one
word of `reqLen W` bits: bit 0 is `req_op`, as spec/opcode_table.json numbers it, and the other ports follow in
the order of 30_encoding.md R71, each as a binary number (log 8). The other formats are numbers whose most
significant bit is the first bit of the sequence, as the table's `match` values are.
-/

namespace Sys2Proof

/-- The formats a word can be in, besides a request: the operands of the five internal functions, and the formats
of 30_encoding.md R70 that the table lists. -/
inductive Format where
  | codeFor (v : Variant)
  | occupantForW4
  | occupantForW12
  | metaPack
  | metaUnpack
  | occid
  | pc4
  | pc12
  | metaBlock
  | bv4
  | bv12
  | err
deriving DecidableEq, Repr

/-- A format's width in bits (30_encoding.md R70). -/
def Format.width : Format → Nat
  | .codeFor _ => 4
  | .occupantForW4 => 4
  | .occupantForW12 => 12
  | .metaPack => 12
  | .metaUnpack => 11
  | .occid => 4
  | .pc4 => 4
  | .pc12 => 12
  | .metaBlock => 11
  | .bv4 => 267
  | .bv12 => 779
  | .err => 1

/-- A word on its way to the decoder: a request to an instance of variant `v`, or a word of another format. -/
inductive Word where
  | request (v : Variant) (bits : Nat)
  | plain (f : Format) (bits : Nat)
deriving DecidableEq, Repr

/-- Why a word is rejected. -/
inductive Reject where
  /-- The word has a 1 at a position where its format has no port. Raised by `decodeWord`; safe. -/
  | noSuchPort
deriving DecidableEq, Repr

/-- The width of a request: 1 + 268 + L + 10 bits (30_encoding.md R70). The sum is written in the order the ports
are laid out, from the most significant. -/
abbrev reqLen (W : Nat) : Nat := 10 + vecLen W + 6 + 1 + 4 + 1 + 4 * 64 + 1

/-- `f 0 ++ f 1 ++ ... ++ f (n-1)`: `n` slots of `W` bits, slot 0 first. -/
def concatSlots {W : Nat} : (n : Nat) → (Fin n → BitVec W) → BitVec (W * n)
  | 0, _ => 0#0
  | n + 1, f => (concatSlots n (fun i => f i.castSucc) ++ f (Fin.last n) : BitVec (W * n + W))

/-- The request word of an operation code and operands. -/
def reqWord {W : Nat} (op : BitVec 1) (r : ReqOperands W) : BitVec (reqLen W) :=
  r.len ++ r.vec ++ r.pos.ep ++ r.pos.epSome ++ r.pos.castle ++ r.pos.turn
    ++ concatSlots 64 (fun i => r.pos.sq[i.rev]) ++ op

/-- The operand ports of a request word. -/
def reqOperands {W : Nat} (w : BitVec (reqLen W)) : ReqOperands W where
  pos :=
    { sq := Vector.ofFn fun i => w.extractLsb' (1 + 4 * i.val) 4
      turn := w.extractLsb' 257 1
      castle := w.extractLsb' 258 4
      epSome := w.extractLsb' 262 1
      ep := w.extractLsb' 263 6 }
  vec := w.extractLsb' 269 (vecLen W)
  len := w.extractLsb' (269 + vecLen W) 10

/-- The operation field, bit 0 of a request word, selects the operation: 0 ENCODE, 1 DECODE (30_encoding.md R72). -/
def decodeRequest (v : Variant) (bits : Nat) : Instr :=
  if bits % 2 = 0 then .encode v (reqOperands (BitVec.ofNat (reqLen v.width) bits))
  else .decode v (reqOperands (BitVec.ofNat (reqLen v.width) bits))

/-- The occupant id rows (30_encoding.md R74, R75). -/
def decodeOccid (id : BitVec 4) : Instr :=
  match id.toNat with
  | 0 => .occidEmpty
  | 1 => .occidWhitePawn
  | 2 => .occidWhiteKnight
  | 3 => .occidWhiteBishop
  | 4 => .occidWhiteRook
  | 5 => .occidWhiteQueen
  | 6 => .occidWhiteKing
  | 7 => .occidBlackPawn
  | 8 => .occidBlackKnight
  | 9 => .occidBlackBishop
  | 10 => .occidBlackRook
  | 11 => .occidBlackQueen
  | 12 => .occidBlackKing
  | 13 => .occidReserved13
  | 14 => .occidReserved14
  | _ => .occidReserved15

/-- The rows of the default 4-bit codes (40_piece_code_table.md R112, R115). -/
def decodePc4 (c : BitVec 4) : Instr :=
  match c.toNat with
  | 0x0 => .pc4Empty
  | 0x1 => .pc4WhitePawn
  | 0x2 => .pc4WhiteKnight
  | 0x3 => .pc4WhiteBishop
  | 0x4 => .pc4WhiteRook
  | 0x5 => .pc4WhiteQueen
  | 0x6 => .pc4WhiteKing
  | 0x7 => .pc4Unassigned7
  | 0x8 => .pc4Unassigned8
  | 0x9 => .pc4BlackPawn
  | 0xA => .pc4BlackKnight
  | 0xB => .pc4BlackBishop
  | 0xC => .pc4BlackRook
  | 0xD => .pc4BlackQueen
  | 0xE => .pc4BlackKing
  | _ => .pc4UnassignedF

/-- The rows of the default 12-bit codes (40_piece_code_table.md R113); every other pattern is unassigned (R116). -/
def decodePc12 (c : BitVec 12) : Instr :=
  match c.toNat with
  | 0x000 => .pc12Empty
  | 0x800 => .pc12WhitePawn
  | 0x400 => .pc12WhiteKnight
  | 0x200 => .pc12WhiteBishop
  | 0x100 => .pc12WhiteRook
  | 0x080 => .pc12WhiteQueen
  | 0x040 => .pc12WhiteKing
  | 0x020 => .pc12BlackPawn
  | 0x010 => .pc12BlackKnight
  | 0x008 => .pc12BlackBishop
  | 0x004 => .pc12BlackRook
  | 0x002 => .pc12BlackQueen
  | 0x001 => .pc12BlackKing
  | _ => .pc12Unassigned c

/-- The metadata ports `tabcdseeeeee` of the row META_PACK. -/
def decodeMetaPack (w : BitVec 12) : Instr :=
  .metaPack (w.extractLsb' 11 1) (w.extractLsb' 7 4) (w.extractLsb' 6 1) (w.extractLsb' 0 6)

/-- The error codes (30_encoding.md R78). -/
def decodeErr (e : BitVec 1) : Instr := if e = 0#1 then .errNone else .errLength

/-- A word of a format that is no request. -/
def decodePlain (f : Format) (bits : Nat) : Instr :=
  match f with
  | .codeFor v => .codeFor v (BitVec.ofNat 4 bits)
  | .occupantForW4 => .occupantForW4 (BitVec.ofNat 4 bits)
  | .occupantForW12 => .occupantForW12 (BitVec.ofNat 12 bits)
  | .metaPack => decodeMetaPack (BitVec.ofNat 12 bits)
  | .metaUnpack => .metaUnpack (BitVec.ofNat 11 bits)
  | .occid => decodeOccid (BitVec.ofNat 4 bits)
  | .pc4 => decodePc4 (BitVec.ofNat 4 bits)
  | .pc12 => decodePc12 (BitVec.ofNat 12 bits)
  | .metaBlock => .metaBlock (BitVec.ofNat 11 bits)
  | .bv4 => .bv4 (BitVec.ofNat 267 bits)
  | .bv12 => .bv12 (BitVec.ofNat 779 bits)
  | .err => decodeErr (BitVec.ofNat 1 bits)

/-- No bit at or above position `n` of the number is 1: a port of `n` bits can carry it. -/
def fitsIn (n bits : Nat) : Bool := bits >>> n == 0

/-- The instruction of a word, or why there is none. Total: no pattern of a format's bits is illegal
(30_encoding.md R86, "Nothing traps"), so only a 1 beyond the format's ports is rejected. -/
def decodeWord (w : Word) : Except Reject Instr :=
  match w with
  | .request v bits =>
    if fitsIn (reqLen v.width) bits then .ok (decodeRequest v bits) else .error .noSuchPort
  | .plain f bits =>
    if fitsIn f.width bits then .ok (decodePlain f bits) else .error .noSuchPort

/-- The word of an instruction, from the same encodings. -/
def encodeInstr : Instr → Word
  | .encode v r => .request v (reqWord 0#1 r).toNat
  | .decode v r => .request v (reqWord 1#1 r).toNat
  | .codeFor v id => .plain (.codeFor v) id.toNat
  | .occupantForW4 c => .plain .occupantForW4 c.toNat
  | .occupantForW12 c => .plain .occupantForW12 c.toNat
  | .metaPack t c s e => .plain .metaPack (t ++ c ++ s ++ e).toNat
  | .metaUnpack m => .plain .metaUnpack m.toNat
  | .occidEmpty => .plain .occid 0
  | .occidWhitePawn => .plain .occid 1
  | .occidWhiteKnight => .plain .occid 2
  | .occidWhiteBishop => .plain .occid 3
  | .occidWhiteRook => .plain .occid 4
  | .occidWhiteQueen => .plain .occid 5
  | .occidWhiteKing => .plain .occid 6
  | .occidBlackPawn => .plain .occid 7
  | .occidBlackKnight => .plain .occid 8
  | .occidBlackBishop => .plain .occid 9
  | .occidBlackRook => .plain .occid 10
  | .occidBlackQueen => .plain .occid 11
  | .occidBlackKing => .plain .occid 12
  | .occidReserved13 => .plain .occid 13
  | .occidReserved14 => .plain .occid 14
  | .occidReserved15 => .plain .occid 15
  | .pc4Empty => .plain .pc4 0x0
  | .pc4WhitePawn => .plain .pc4 0x1
  | .pc4WhiteKnight => .plain .pc4 0x2
  | .pc4WhiteBishop => .plain .pc4 0x3
  | .pc4WhiteRook => .plain .pc4 0x4
  | .pc4WhiteQueen => .plain .pc4 0x5
  | .pc4WhiteKing => .plain .pc4 0x6
  | .pc4BlackPawn => .plain .pc4 0x9
  | .pc4BlackKnight => .plain .pc4 0xA
  | .pc4BlackBishop => .plain .pc4 0xB
  | .pc4BlackRook => .plain .pc4 0xC
  | .pc4BlackQueen => .plain .pc4 0xD
  | .pc4BlackKing => .plain .pc4 0xE
  | .pc4Unassigned7 => .plain .pc4 0x7
  | .pc4Unassigned8 => .plain .pc4 0x8
  | .pc4UnassignedF => .plain .pc4 0xF
  | .pc12Empty => .plain .pc12 0x000
  | .pc12WhitePawn => .plain .pc12 0x800
  | .pc12WhiteKnight => .plain .pc12 0x400
  | .pc12WhiteBishop => .plain .pc12 0x200
  | .pc12WhiteRook => .plain .pc12 0x100
  | .pc12WhiteQueen => .plain .pc12 0x080
  | .pc12WhiteKing => .plain .pc12 0x040
  | .pc12BlackPawn => .plain .pc12 0x020
  | .pc12BlackKnight => .plain .pc12 0x010
  | .pc12BlackBishop => .plain .pc12 0x008
  | .pc12BlackRook => .plain .pc12 0x004
  | .pc12BlackQueen => .plain .pc12 0x002
  | .pc12BlackKing => .plain .pc12 0x001
  | .pc12Unassigned c => .plain .pc12 c.toNat
  | .metaBlock m => .plain .metaBlock m.toNat
  | .bv4 vec => .plain .bv4 vec.toNat
  | .bv12 vec => .plain .bv12 vec.toNat
  | .errNone => .plain .err 0
  | .errLength => .plain .err 1

/-- The word meant by `w` bits of the opcode table where no format is given. The table's rows overlap across
formats (0 is ENCODE, OCCID.empty, PC4.empty and ERR_NONE), so the format is a choice of the model's (log 7): the
widths 1, 4, 12, 267, REQ of CMC-4, 779, REQ of CMC-12 in turn, the smallest that `nbits` whole bytes hold. The
table's reader numbers a field above some four-bit rows (OCCID.b, hi 9), so a pattern below 16 that is no
assigned 12-bit code is read as an occupant id in two bytes as well. DESIGN CHOICE. -/
def tableWord (nbits w : Nat) : Word :=
  if nbits ≤ 8 then
    if w < 2 then .request .cmc4 w else .plain .occid w
  else if nbits ≤ 16 then
    if w < 16 && twoOrMoreBits (BitVec.ofNat 12 w) then .plain .occid w else .plain .pc12 w
  else if nbits ≤ 272 then .plain .bv4 w
  else if nbits ≤ 552 then .request .cmc4 w
  else if nbits ≤ 784 then .plain .bv12 w
  else .request .cmc12 w

/-- The instruction the decoder reads from an instruction whose bits are `w` (every bit above `nbits` is 0). -/
def decodeTableWord (nbits w : Nat) : Option Instr :=
  match decodeWord (tableWord nbits w) with
  | .ok i => some i
  | .error _ => none

end Sys2Proof
end

