-- ==== Sys2Proof/Machine/State.lean ====
section
/-!
DEFINITION. The state. The machine's own part (`Chip`) is the response holding register of one CMC-4 and one CMC-12
instance, all the architectural state there is (10_state.md R29; 60_exceptions.md R232). Beside it stands the
environment (`Environment`): what the host will drive and what it has seen. A request belongs to the host until it is
accepted, and Position and Bit Vector values to the caller (10_state.md R27, R37), so these are no fields of `Chip`.
-/

namespace Sys2Proof.Machine

/-- The `RESP` format (30_encoding.md R77), the contents of the response holding register (10_state.md R29). -/
structure Resp (W : Nat) where
  /-- `RESP.op`: 0 ENCODE, 1 DECODE -/
  op : BitVec 1
  /-- `RESP.err`: 0 none, 1 length mismatch (10_state.md R32) -/
  err : BitVec 1
  /-- `RESP.vec`: L bits, element k of the port is bit k of the sequence -/
  vec : BitVec (vecLen W)
  /-- `RESP.pos`: 268 bits, in the port form -/
  pos : PosPorts
deriving DecidableEq, Repr

/-- One instance of piece-code width `W`: the response holding register and nothing else. -/
structure Codec (W : Nat) where
  /-- `RESP_VALID` (10_state.md R29) -/
  respValid : Bool
  /-- `RESP` (10_state.md R29) -/
  resp : Resp W
deriving DecidableEq, Repr

/-- What the host drives on the request ports at one edge (47_transaction_interface.md R201). -/
inductive Presented where
  /-- `req_valid = 0` -/
  | none
  /-- `req_valid = 1` and a request word on the ports -/
  | word (bits : Nat)
  /-- `req_valid = 1` and a port the operation reads is neither 0 nor 1 (93_implementation_defined.md I13) -/
  | indefinite
deriving DecidableEq, Repr

/-- One thing the environment does; one step of the machine takes one of them. -/
inductive Input where
  /-- A rising edge of the clock of the instance of variant `v`, with the values of `rst`, `resp_ready` and the
  request ports at that edge (47_transaction_interface.md R205). -/
  | edge (v : Variant) (rst respReady : Bool) (req : Presented)
  /-- The evaluation of one word of the functional layer on its own (00_scope.md R7; log 6). -/
  | eval (f : Format) (bits : Nat)
deriving DecidableEq, Repr

/-- The two error codes (30_encoding.md R78). -/
inductive ErrCode where
  | none
  | length
deriving DecidableEq, Repr

/-- A value of the functional layer: what an internal function gives, or what a word of a format stands for. -/
inductive FnValue where
  | none
  | occupant (o : Occupant)
  | code (v : Variant) (c : BitVec v.width)
  | block (m : BitVec 11)
  | metadata (m : Metadata)
  | metaFields (f : MetaFields)
  | vector (v : Variant) (slots : Vector (BitVec v.width) 64) (f : MetaFields)
  | errCode (e : ErrCode)
deriving DecidableEq, Repr

/-- The machine state (10_state.md R29). No request, no Position, no Bit Vector, no table and no width is a field
of it (R37). -/
structure Chip where
  /-- the CMC-4 instance -/
  cmc4 : Codec 4
  /-- the CMC-12 instance -/
  cmc12 : Codec 12
deriving DecidableEq, Repr

/-- The environment's side, the MODEL's own (log 1, log 6, log 12): it belongs to the host, the caller of the codec,
and no part of the hardware. The type of `step` has no argument for the inputs, so they stand here. -/
structure Environment where
  /-- what the host will drive, the next edge first -/
  inputs : List Input
  /-- the `resp_ready` pin at the edge being stepped (47_transaction_interface.md R201) -/
  respReady : Bool
  /-- the responses the host has taken from the CMC-4 instance, oldest first (47_transaction_interface.md R204, "the
  host has observed the response ports"; log 12) -/
  taken4 : List (Resp 4)
  /-- the same for the CMC-12 instance -/
  taken12 : List (Resp 12)
  /-- the value the caller was last given by an evaluation of the functional layer on its own (log 6) -/
  value : FnValue
deriving DecidableEq, Repr

/-- The closed system that `step` steps: the machine and its environment. -/
structure State where
  chip : Chip
  env : Environment
deriving DecidableEq, Repr

/-- Why a step faults. There is no constructor: the hardware's one error is a response, not a fault
(60_exceptions.md R235), and no behaviour of it is undefined (93_implementation_defined.md, end of part 1). -/
inductive Fault where
deriving DecidableEq, Repr

/-- Why a step has no next state. -/
inductive Refusal where
  /-- The instruction has no meaning yet. Raised by `exec`'s refused arms (there are none); safe. -/
  | notModelled (mnemonic : String)
  /-- A word with a 1 where its format has no port. Raised by `step` on a word the decoder rejects; safe: no host
  can drive such a word. -/
  | noSuchPort
  /-- A request would be accepted while a port it reads carries neither 0 nor 1 (70_reset_and_hazards.md R254;
  93_implementation_defined.md I13: refuse). Raised by `step`; safe. -/
  | indefiniteInput
deriving DecidableEq, Repr

/-- All Position ports 0. -/
def zeroPos : PosPorts where
  sq := Vector.replicate 64 0#4
  turn := 0#1
  castle := 0#4
  epSome := 0#1
  ep := 0#6

/-- A response register after reset: `RESP_VALID` is 0 (70_reset_and_hazards.md R250); the rest is unspecified
(10_state.md R36) and 0 here. DESIGN CHOICE (log 3). -/
def Codec.reset (W : Nat) : Codec W where
  respValid := false
  resp := { op := 0#1, err := 0#1, vec := 0#(vecLen W), pos := zeroPos }

/-- The machine right after reset (10_state.md R36, 70_reset_and_hazards.md R250), with nothing presented. -/
def State.reset : State where
  chip := { cmc4 := Codec.reset 4, cmc12 := Codec.reset 12 }
  env := { inputs := [], respReady := false, taken4 := [], taken12 := [], value := .none }

end Sys2Proof.Machine
end

