-- ==== Sys2Proof/Machine/Flags.lean ====
section
/-!
DEFINITION. The one flag, `resp_err` (10_state.md R32), and the test it is computed from.
-/

namespace Sys2Proof.Machine

/-- The length test of DECODE: an equality of the unsigned 10-bit `req_len` with L (43_decode.md R160,
47_transaction_interface.md R211 (b)). -/
def lengthOk (W : Nat) (len : BitVec 10) : Bool := len.toNat = vecLen W

/-- `ERR_NONE` (30_encoding.md R78). -/
def errNoneBit : BitVec 1 := 0#1

/-- `ERR_LENGTH` (30_encoding.md R78, 60_exceptions.md R221). -/
def errLengthBit : BitVec 1 := 1#1

/-- The error a code stands for (30_encoding.md R78). -/
def errOfBit (e : BitVec 1) : ErrCode := if e = errLengthBit then .length else .none

end Sys2Proof.Machine
end

