-- ==== Sys2Proof/Machine/Operands.lean ====
section
/-!
DEFINITION. The operand forms: how occupants, metadata and Positions stand on the ports (30_encoding.md R71 to
R76).
-/

namespace Sys2Proof.Machine

/-- `occ_of_id`: the occupant an id names; 13, 14 and 15 are read as `empty` (30_encoding.md R74, R75). -/
def occOfId (id : BitVec 4) : Occupant :=
  match id.toNat with
  | 1 => .piece .pawn .white
  | 2 => .piece .knight .white
  | 3 => .piece .bishop .white
  | 4 => .piece .rook .white
  | 5 => .piece .queen .white
  | 6 => .piece .king .white
  | 7 => .piece .pawn .black
  | 8 => .piece .knight .black
  | 9 => .piece .bishop .black
  | 10 => .piece .rook .black
  | 11 => .piece .queen .black
  | 12 => .piece .king .black
  | _ => .empty

/-- `id_of_occ`: the id of an occupant, always 0..12 (30_encoding.md R74, R75). -/
def idOfOcc : Occupant → BitVec 4
  | .empty => 0#4
  | .piece .pawn .white => 1#4
  | .piece .knight .white => 2#4
  | .piece .bishop .white => 3#4
  | .piece .rook .white => 4#4
  | .piece .queen .white => 5#4
  | .piece .king .white => 6#4
  | .piece .pawn .black => 7#4
  | .piece .knight .black => 8#4
  | .piece .bishop .black => 9#4
  | .piece .rook .black => 10#4
  | .piece .queen .black => 11#4
  | .piece .king .black => 12#4

/-- The colour of a turn port or turn bit: 0 white, 1 black (30_encoding.md R73, R81). -/
def colorOfBit (b : BitVec 1) : Color := if b = 0#1 then .white else .black

/-- The turn port or turn bit of a colour (30_encoding.md R73, R81). -/
def bitOfColor : Color → BitVec 1
  | .white => 0#1
  | .black => 1#1

/-- `bit2b` (00_scope.md R13). -/
def bit2b (b : BitVec 1) : Bool := b = 1#1

/-- `b2bit` (00_scope.md R13). -/
def b2bit (c : Bool) : BitVec 1 := BitVec.ofBool c

/-- A square index as a 6-bit number, `bin_6(e)` (30_encoding.md R83). -/
def bin6 (e : Square) : BitVec 6 := BitVec.ofNat 6 e.val

/-- A 6-bit field as a square index, `nat` of it (30_encoding.md R83): all 64 values are squares. -/
def squareOfBits (b : BitVec 6) : Square := ⟨b.toNat, b.isLt⟩

/-- The optional en-passant target on the ports; the index port is ignored when there is no target
(30_encoding.md R71, R73). -/
def epOfPorts (epSome : BitVec 1) (ep : BitVec 6) : Option Square :=
  if epSome = 1#1 then some (squareOfBits ep) else none

/-- The metadata the metadata ports carry (30_encoding.md R73). -/
def metadataOfPorts (turn : BitVec 1) (castle : BitVec 4) (epSome : BitVec 1) (ep : BitVec 6) : Metadata where
  turn := colorOfBit turn
  wk := castle[3]
  wq := castle[2]
  bk := castle[1]
  bq := castle[0]
  ep := epOfPorts epSome ep

/-- The Position the ports carry (30_encoding.md R73; the first half of `F`, 47_transaction_interface.md R202). -/
def posOfPorts (p : PosPorts) : Position where
  toMetadata := metadataOfPorts p.turn p.castle p.epSome p.ep
  sq := Vector.ofFn fun i => occOfId p.sq[i]

/-- A Position on the response ports (30_encoding.md R73: the index port is 0 when there is no target). -/
def portsOfPos (P : Position) : PosPorts where
  sq := Vector.ofFn fun i => idOfOcc P.sq[i]
  turn := bitOfColor P.turn
  castle := b2bit P.wk ++ b2bit P.wq ++ b2bit P.bk ++ b2bit P.bq
  epSome := b2bit P.ep.isSome
  ep := match P.ep with
    | none => 0#6
    | some e => bin6 e

/-- The operands a host presents to DECODE for a bit sequence `v` of any length `n`: `req_len = min(n, 1023)`,
and `v` on `req_vec` when `n` is L; otherwise anything (30_encoding.md R76). The ports that then carry anything
are taken from `any`. -/
def decodeOperands {W n : Nat} (v : BitVec n) (any : ReqOperands W) : ReqOperands W where
  pos := any.pos
  vec := if h : n = vecLen W then v.cast h else any.vec
  len := BitVec.ofNat 10 (min n 1023)

end Sys2Proof.Machine
end

