-- ==== Sys2Proof/Machine/PieceCodes.lean ====
section
/-!
DEFINITION. The Piece Code Table (40_piece_code_table.md): the two lookups over any table, and the spec's two
default tables. The values are parameters of the hardware with these defaults (92_eei_decisions.md D6, D7; log 4).
-/

namespace Sys2Proof.Machine

/-- The 13 occupants, in the order of their ids (10_state.md R20, 30_encoding.md R74). -/
def allOccupants : List Occupant :=
  [.empty,
   .piece .pawn .white, .piece .knight .white, .piece .bishop .white,
   .piece .rook .white, .piece .queen .white, .piece .king .white,
   .piece .pawn .black, .piece .knight .black, .piece .bishop .black,
   .piece .rook .black, .piece .queen .black, .piece .king .black]

/-- CODE_FOR: the row of the occupant in the table (40_piece_code_table.md R119). -/
def codeFor {W : Nat} (T : PieceCodeTable W) (o : Occupant) : BitVec W := T.codeFor o

/-- OCCUPANT_FOR: the occupant whose code `c` is, else `empty` (40_piece_code_table.md R120, R114 to R116). -/
def occupantFor {W : Nat} (T : PieceCodeTable W) (c : BitVec W) : Occupant :=
  (allOccupants.find? fun o => codeFor T o = c).getD .empty

/-- The code is assigned: some occupant's code (00_scope.md, glossary). -/
def Assigned {W : Nat} (T : PieceCodeTable W) (c : BitVec W) : Prop := ∃ o, codeFor T o = c

/-- The default table for W = 4 (40_piece_code_table.md R112). -/
def code4 : Occupant → BitVec 4
  | .empty => 0b0000#4
  | .piece .pawn .white => 0b0001#4
  | .piece .knight .white => 0b0010#4
  | .piece .bishop .white => 0b0011#4
  | .piece .rook .white => 0b0100#4
  | .piece .queen .white => 0b0101#4
  | .piece .king .white => 0b0110#4
  | .piece .pawn .black => 0b1001#4
  | .piece .knight .black => 0b1010#4
  | .piece .bishop .black => 0b1011#4
  | .piece .rook .black => 0b1100#4
  | .piece .queen .black => 0b1101#4
  | .piece .king .black => 0b1110#4

/-- The default table for W = 12 (40_piece_code_table.md R113). -/
def code12 : Occupant → BitVec 12
  | .empty => 0b000000000000#12
  | .piece .pawn .white => 0b100000000000#12
  | .piece .knight .white => 0b010000000000#12
  | .piece .bishop .white => 0b001000000000#12
  | .piece .rook .white => 0b000100000000#12
  | .piece .queen .white => 0b000010000000#12
  | .piece .king .white => 0b000001000000#12
  | .piece .pawn .black => 0b000000100000#12
  | .piece .knight .black => 0b000000010000#12
  | .piece .bishop .black => 0b000000001000#12
  | .piece .rook .black => 0b000000000100#12
  | .piece .queen .black => 0b000000000010#12
  | .piece .king .black => 0b000000000001#12

/-- Two occupants of one code are equal, in a table whose 13 codes are pairwise different. -/
theorem injective_of_pairwise {W : Nat} (code : Occupant → BitVec W)
    (h : ∀ a ∈ allOccupants, ∀ b ∈ allOccupants, code a = code b → a = b) (a b : Occupant)
    (hab : code a = code b) : a = b := by
  have mem : ∀ o : Occupant, o ∈ allOccupants := by
    intro o
    rcases o with _ | ⟨k, c⟩
    · decide
    · cases k <;> cases c <;> decide
  exact h a (mem a) b (mem b) hab

/-- `PCT4` (40_piece_code_table.md R112). -/
def pct4 : PieceCodeTable 4 where
  codeFor := code4
  injective := injective_of_pairwise code4 (by decide)

/-- `PCT12` (40_piece_code_table.md R113). -/
def pct12 : PieceCodeTable 12 where
  codeFor := code12
  injective := injective_of_pairwise code12 (by decide)

/-- `PCT12` meets constraint (b) (40_piece_code_table.md R111, R113). -/
theorem pct12_oneHot : pct12.OneHot := by
  intro k c
  cases k <;> cases c <;> decide

/-- The spec's default tables (40_piece_code_table.md R112, R113), the value the argument `PCT` takes where none is
given (log 4). -/
def pct : Tables where
  cmc4 := pct4
  cmc12 := pct12
  oneHot := pct12_oneHot

end Sys2Proof.Machine
end

