-- ==== Sys2Proof/Machine/Ops.lean ====
section
/-!
DEFINITION. The shared operations: the functional layer (slices of a Bit Vector, the metadata packer and unpacker,
encode and decode), the response function, the one error, and the steps of the transaction layer.
-/

namespace Sys2Proof.Machine

/-! ## The bit space (20_memory.md R43, R44) -/

/-- `s⟨k⟩`: bit `k` of a sequence, counted from the first (00_scope.md R10). -/
def seqBit {n : Nat} (s : BitVec n) (k : Nat) : Bool := s.getMsbD k

/-- `s⟨k..k+n-1⟩`: the `n` bits from sequence index `k` (00_scope.md R10, R13 `MemRead(BV, v, k, n)`). -/
def slice {m : Nat} (s : BitVec m) (k n : Nat) : BitVec n := s.extractLsb' (m - k - n) n

/-- Code slot `i`, indices `i*W .. i*W+W-1` (30_encoding.md R79, 43_decode.md R162). -/
def slot {W : Nat} (v : BitVec (vecLen W)) (i : Square) : BitVec W := slice v (i.val * W) W

/-- The metadata block, indices `64*W .. 64*W+10` (30_encoding.md R79). -/
def metaBlockOf {W : Nat} (v : BitVec (vecLen W)) : BitVec 11 := slice v (64 * W) 11

/-- The fields of the metadata block (30_encoding.md R80). -/
def metaFieldsOf (m : BitVec 11) : MetaFields where
  turn := slice m 0 1
  wk := slice m 1 1
  wq := slice m 2 1
  bk := slice m 3 1
  bq := slice m 4 1
  ep := slice m 5 6

/-! ## The square space: the Position capability (20_memory.md R50) -/

/-- "read occupant at a given square index", `MemRead(SQ, P, i)`. -/
def readSquare (P : Position) (i : Square) : Occupant := P.sq[i]

/-- "set occupant at a given square index", `MemWrite(SQ, P, i, o)`. -/
def writeSquare (P : Position) (i : Square) (o : Occupant) : Position := { P with sq := P.sq.set i.val o i.isLt }

/-- "set side-to-move", "set/clear each castling permission", "set the en-passant target", all at once. -/
def writeMetadata (P : Position) (m : Metadata) : Position := { P with toMetadata := m }

/-! ## The metadata packer and unpacker (41_metadata_block.md) -/

/-- The six en-passant bits: `bin_6(e)`, or six zeros when there is no target (30_encoding.md R83). -/
def epField : Option Square → BitVec 6
  | none => 0#6
  | some e => bin6 e

/-- META_PACK (41_metadata_block.md R130). -/
def metaPack (m : Metadata) : BitVec 11 :=
  bitOfColor m.turn ++ b2bit m.wk ++ b2bit m.wq ++ b2bit m.bk ++ b2bit m.bq ++ epField m.ep

/-- The first half of the normalization: all four permissions false (41_metadata_block.md R132). -/
def clearCastling (m : Metadata) : Metadata := { m with wk := false, wq := false, bk := false, bq := false }

/-- The second half: grant exactly the permissions whose bit is 1 (41_metadata_block.md R131, R132). -/
def grantCastling (f : MetaFields) (m : Metadata) : Metadata :=
  let m := if f.wk = 1#1 then { m with wk := true } else m
  let m := if f.wq = 1#1 then { m with wq := true } else m
  let m := if f.bk = 1#1 then { m with bk := true } else m
  if f.bq = 1#1 then { m with bq := true } else m

/-- META_UNPACK over metadata `old` that a collaborator's fresh Position might hold: every field of `old` is
overwritten (41_metadata_block.md R131 to R133; 43_decode.md R164). -/
def metaUnpackInto (old : Metadata) (m : BitVec 11) : Metadata :=
  let f := metaFieldsOf m
  let new := grantCastling f (clearCastling { old with turn := colorOfBit f.turn })
  { new with ep := some (squareOfBits f.ep) }

/-- Metadata with nothing set, for the hardware's fresh Position: no field of it survives. -/
def blankMetadata : Metadata where
  turn := .white
  wk := false
  wq := false
  bk := false
  bq := false
  ep := none

/-- META_UNPACK (41_metadata_block.md R131): never `none` for the target (R133). -/
def metaUnpack (m : BitVec 11) : Metadata := metaUnpackInto blankMetadata m

/-! ## ENCODE and DECODE as functions (42_encode.md R150, 43_decode.md R160) -/

/-- The placement region of a Position: the 64 codes in index order (42_encode.md R150). -/
def placementBits {W : Nat} (T : PieceCodeTable W) (P : Position) : BitVec (W * 64) :=
  concatSlots 64 fun i => codeFor T (readSquare P i)

/-- `encode`: the 64 codes, square 0 first, then the metadata block (42_encode.md R150). -/
def encodePosition {W : Nat} (T : PieceCodeTable W) (P : Position) : BitVec (vecLen W) :=
  (placementBits T P ++ metaPack P.toMetadata).cast (by rw [vecLen, Nat.mul_comm])

/-- `decode` of a vector of the right length, which cannot fail (43_decode.md R160, R165). -/
def decodeVector {W : Nat} (T : PieceCodeTable W) (v : BitVec (vecLen W)) : Position where
  toMetadata := metaUnpack (metaBlockOf v)
  sq := Vector.ofFn fun i => occupantFor T (slot v i)

/-- The loop of 43_decode.md R160 over a fresh Position `fresh`, whose initial fields the source leaves open
(91_not_in_source.md N18): set the 64 squares in turn, then the metadata. -/
def decodeInto {W : Nat} (T : PieceCodeTable W) (fresh : Position) (v : BitVec (vecLen W)) : Position :=
  let placed := (List.finRange 64).foldl (fun P i => writeSquare P i (occupantFor T (slot v i))) fresh
  writeMetadata placed (metaUnpackInto placed.toMetadata (metaBlockOf v))

/-- The one error of the functional layer (60_exceptions.md R221). -/
inductive DecodeError where
  | lengthMismatch
deriving DecidableEq, Repr

/-- `decode` of a bit sequence of any length: the length test first (43_decode.md R160, R161). -/
def decodeSequence {W n : Nat} (T : PieceCodeTable W) (v : BitVec n) : Except DecodeError Position :=
  if h : n = vecLen W then .ok (decodeVector T (v.cast h)) else .error .lengthMismatch

/-- `norm(P)`: the target `some(0)` where there was none (45_roundtrip_laws.md R188). -/
def normPosition (P : Position) : Position := { P with ep := some (P.ep.getD 0) }

/-! ## The response function `F` (47_transaction_interface.md R202) -/

/-- The response to ENCODE (42_encode.md R150). -/
def respondEncode {W : Nat} (T : PieceCodeTable W) (r : ReqOperands W) : Resp W where
  op := 0#1
  err := errNoneBit
  vec := encodePosition T (posOfPorts r.pos)
  pos := zeroPos

/-- `raise LengthMismatch`: the error response, every payload port 0 (60_exceptions.md R221, R227). The
hardware's whole "exception entry": nothing is saved, no mode changes, and there is no return (R228). -/
def raiseLengthMismatch (W : Nat) : Resp W where
  op := 1#1
  err := errLengthBit
  vec := 0#(vecLen W)
  pos := zeroPos

/-- The response to DECODE of a vector of the declared length L (43_decode.md R160). -/
def respondDecoded {W : Nat} (T : PieceCodeTable W) (v : BitVec (vecLen W)) : Resp W where
  op := 1#1
  err := errNoneBit
  vec := 0#(vecLen W)
  pos := portsOfPos (decodeVector T v)

/-- The response to DECODE: the length test decides everything (43_decode.md R161). -/
def respondDecode {W : Nat} (T : PieceCodeTable W) (r : ReqOperands W) : Resp W :=
  if lengthOk W r.len then respondDecoded T r.vec else raiseLengthMismatch W

/-- `F`: the response to a request of operation code `op` (47_transaction_interface.md R202). -/
def respond {W : Nat} (T : PieceCodeTable W) (op : BitVec 1) (r : ReqOperands W) : Resp W :=
  if op = 0#1 then respondEncode T r else respondDecode T r

/-! ## The instances in the state -/

/-- The instance of a variant. -/
def State.codec (s : State) : (v : Variant) → Codec v.width
  | .cmc4 => s.chip.cmc4
  | .cmc12 => s.chip.cmc12

/-- Replace the instance of a variant. -/
def State.setCodec (s : State) : (v : Variant) → Codec v.width → State
  | .cmc4, c => { s with chip.cmc4 := c }
  | .cmc12, c => { s with chip.cmc12 := c }

/-- The responses the host has taken from the instance of a variant. -/
def State.taken (s : State) : (v : Variant) → List (Resp v.width)
  | .cmc4 => s.env.taken4
  | .cmc12 => s.env.taken12

/-- Replace the record of the responses taken. -/
def State.setTaken (s : State) : (v : Variant) → List (Resp v.width) → State
  | .cmc4, l => { s with env.taken4 := l }
  | .cmc12, l => { s with env.taken12 := l }

/-- The inputs still to come. -/
def State.withInputs (s : State) (l : List Input) : State := { s with env.inputs := l }

/-- The `resp_ready` pin at this edge. -/
def State.withRespReady (s : State) (b : Bool) : State := { s with env.respReady := b }

/-- The value of an evaluation of the functional layer, given to the caller. -/
def State.withValue (s : State) (x : FnValue) : State := { s with env.value := x }

/-! ## The steps of the transaction layer (47_transaction_interface.md R203 to R206) -/

/-- `req_ready = (not rst) and ((not RESP_VALID) or resp_ready)` (R205). -/
def reqReady (rst respValid respReady : Bool) : Bool := !rst && (!respValid || respReady)

/-- `deliver = RESP_VALID and resp_ready` (R205). -/
def delivers (respValid respReady : Bool) : Bool := respValid && respReady

/-- ACCEPT (R203): `RESP <- F(req)`, `RESP_VALID <- 1`. Where the instance is not ready nothing changes: the request
is not accepted and the host goes on presenting it. -/
def Codec.accept {W : Nat} (c : Codec W) (respReady : Bool) (answer : Resp W) : Codec W :=
  if reqReady false c.respValid respReady then { respValid := true, resp := answer } else c

/-- DELIVER with no request presented: `RESP_VALID <- 0`, `RESP` left as it is (R204, R205). -/
def Codec.deliver {W : Nat} (c : Codec W) (respReady : Bool) : Codec W :=
  if delivers c.respValid respReady then { c with respValid := false } else c

/-- An edge with `rst = 1`: `RESP_VALID <- 0`, nothing else is written; a waiting response is lost
(70_reset_and_hazards.md R250, R256; log 9). -/
def Codec.resetEdge {W : Nat} (c : Codec W) : Codec W := { c with respValid := false }

/-- The host's side of DELIVER: where it is ready it has observed the waiting response (R204). -/
def State.observe (s : State) (v : Variant) : State :=
  if delivers (s.codec v).respValid s.env.respReady then s.setTaken v (s.taken v ++ [(s.codec v).resp]) else s

/-- An edge that presents to instance `v` a request whose response is `answer`: DELIVER and ACCEPT in one step. -/
def State.accept (s : State) (v : Variant) (answer : Resp v.width) : State :=
  (s.observe v).setCodec v ((s.codec v).accept s.env.respReady answer)

/-- An edge of instance `v` that presents no request: DELIVER. -/
def State.deliver (s : State) (v : Variant) : State :=
  (s.observe v).setCodec v ((s.codec v).deliver s.env.respReady)

/-- An edge with `rst = 1` at instance `v`. -/
def State.resetEdge (s : State) (v : Variant) : State := s.setCodec v (s.codec v).resetEdge

/-- What a host may read on the `resp_*` data ports: `RESP` while `resp_valid = 1`, nothing otherwise
(47_transaction_interface.md R206; log 13). -/
def Codec.respPorts {W : Nat} (c : Codec W) : Option (Resp W) := if c.respValid then some c.resp else none

end Sys2Proof.Machine
end

