-- ==== Sys2Proof/Machine/Formats.lean ====
section
/-!
DEFINITION. The meanings of the format rows META, BV4, BV12, ERR_NONE and ERR_LENGTH: the fields of the word, each
at its place. The value goes to the caller (log 6).
-/

namespace Sys2Proof.Machine

/-- A Bit Vector read field by field: the 64 code slots and the fields of the metadata block
(30_encoding.md R79, R80). -/
def vectorFields (v : Variant) (vec : BitVec (vecLen v.width)) : FnValue :=
  .vector v (Vector.ofFn fun i => slot vec i) (metaFieldsOf (metaBlockOf vec))

/-- META: the block `t a b c d e` field by field; all 2048 patterns are valid (30_encoding.md R80, R86). -/
def execMetaBlock (m : BitVec 11) (s : State) : Host.Outcome State Fault Refusal :=
  .next (s.withValue (.metaFields (metaFieldsOf m)))

/-- BV4: a CMC-4 Bit Vector field by field (30_encoding.md R79). -/
def execBv4 (vec : BitVec 267) (s : State) : Host.Outcome State Fault Refusal :=
  .next (s.withValue (vectorFields .cmc4 vec))

/-- BV12: a CMC-12 Bit Vector field by field (30_encoding.md R79). -/
def execBv12 (vec : BitVec 779) (s : State) : Host.Outcome State Fault Refusal :=
  .next (s.withValue (vectorFields .cmc12 vec))

/-- ERR_NONE: `resp_err = 0` means no error (30_encoding.md R78). -/
def execErrNone (s : State) : Host.Outcome State Fault Refusal := .next (s.withValue (.errCode (errOfBit errNoneBit)))

/-- ERR_LENGTH: `resp_err = 1` means length mismatch (30_encoding.md R78, 60_exceptions.md R221). -/
def execErrLength (s : State) : Host.Outcome State Fault Refusal := .next (s.withValue (.errCode (errOfBit errLengthBit)))

end Sys2Proof.Machine
end

