-- ==== Sys2Proof/Machine/Functions.lean ====
section
/-!
DEFINITION. The meanings of the five internal functions, evaluated on their own (00_scope.md R7; log 6): each is
pure (00_scope.md R14), so its one effect is its value, given to the caller (the model's own field `value`). The lookups take the tables as an
argument (00_scope.md R8).
-/

namespace Sys2Proof.Machine

/-- CODE_FOR: the id is first mapped by `occ_of_id`, then looked up (40_piece_code_table.md R119). -/
def execCodeFor (v : Variant) (id : BitVec 4) (s : State) (T : Tables := pct) : Host.Outcome State Fault Refusal :=
  .next (s.withValue (.code v (codeFor (T.of v) (occOfId id))))

/-- OCCUPANT_FOR of a 4-bit pattern (40_piece_code_table.md R120). -/
def execOccupantForW4 (c : BitVec 4) (s : State) (T : Tables := pct) : Host.Outcome State Fault Refusal :=
  .next (s.withValue (.occupant (occupantFor T.cmc4 c)))

/-- OCCUPANT_FOR of a 12-bit pattern (40_piece_code_table.md R120). -/
def execOccupantForW12 (c : BitVec 12) (s : State) (T : Tables := pct) : Host.Outcome State Fault Refusal :=
  .next (s.withValue (.occupant (occupantFor T.cmc12 c)))

/-- META_PACK of the metadata ports (41_metadata_block.md R130). -/
def execMetaPack (turn : BitVec 1) (castle : BitVec 4) (epSome : BitVec 1) (ep : BitVec 6) (s : State) :
    Host.Outcome State Fault Refusal :=
  .next (s.withValue (.block (metaPack (metadataOfPorts turn castle epSome ep))))

/-- META_UNPACK of a block (41_metadata_block.md R131). -/
def execMetaUnpack (m : BitVec 11) (s : State) : Host.Outcome State Fault Refusal :=
  .next (s.withValue (.metadata (metaUnpack m)))

end Sys2Proof.Machine
end

