-- ==== Sys2Proof/Machine/OccupantIds.lean ====
section
/-!
DEFINITION. The meanings of the occupant id rows (30_encoding.md R74, R75): what a request port carrying the id is
read as. The value goes to the caller (log 6).
-/

namespace Sys2Proof.Machine

/-- A port carrying the occupant id `id` is read (`occ_of_id`, 30_encoding.md R74, R75). -/
def readOccid (id : BitVec 4) (s : State) : Host.Outcome State Fault Refusal :=
  .next (s.withValue (.occupant (occOfId id)))

/-- OCCID.empty: id 0 is empty (30_encoding.md R74). -/
def execOccidEmpty (s : State) : Host.Outcome State Fault Refusal := readOccid 0#4 s

/-- OCCID.P: id 1 is white pawn (30_encoding.md R74). -/
def execOccidWhitePawn (s : State) : Host.Outcome State Fault Refusal := readOccid 1#4 s

/-- OCCID.N: id 2 is white knight (30_encoding.md R74). -/
def execOccidWhiteKnight (s : State) : Host.Outcome State Fault Refusal := readOccid 2#4 s

/-- OCCID.B: id 3 is white bishop (30_encoding.md R74). -/
def execOccidWhiteBishop (s : State) : Host.Outcome State Fault Refusal := readOccid 3#4 s

/-- OCCID.R: id 4 is white rook (30_encoding.md R74). -/
def execOccidWhiteRook (s : State) : Host.Outcome State Fault Refusal := readOccid 4#4 s

/-- OCCID.Q: id 5 is white queen (30_encoding.md R74). -/
def execOccidWhiteQueen (s : State) : Host.Outcome State Fault Refusal := readOccid 5#4 s

/-- OCCID.K: id 6 is white king (30_encoding.md R74). -/
def execOccidWhiteKing (s : State) : Host.Outcome State Fault Refusal := readOccid 6#4 s

/-- OCCID.p: id 7 is black pawn (30_encoding.md R74). -/
def execOccidBlackPawn (s : State) : Host.Outcome State Fault Refusal := readOccid 7#4 s

/-- OCCID.n: id 8 is black knight (30_encoding.md R74). -/
def execOccidBlackKnight (s : State) : Host.Outcome State Fault Refusal := readOccid 8#4 s

/-- OCCID.b: id 9 is black bishop (30_encoding.md R74). -/
def execOccidBlackBishop (s : State) : Host.Outcome State Fault Refusal := readOccid 9#4 s

/-- OCCID.r: id 10 is black rook (30_encoding.md R74). -/
def execOccidBlackRook (s : State) : Host.Outcome State Fault Refusal := readOccid 10#4 s

/-- OCCID.q: id 11 is black queen (30_encoding.md R74). -/
def execOccidBlackQueen (s : State) : Host.Outcome State Fault Refusal := readOccid 11#4 s

/-- OCCID.k: id 12 is black king (30_encoding.md R74). -/
def execOccidBlackKing (s : State) : Host.Outcome State Fault Refusal := readOccid 12#4 s

/-- OCCID.reserved_13: id 13 names no occupant and is read as empty (30_encoding.md R75). -/
def execOccidReserved13 (s : State) : Host.Outcome State Fault Refusal := readOccid 13#4 s

/-- OCCID.reserved_14: id 14 names no occupant and is read as empty (30_encoding.md R75). -/
def execOccidReserved14 (s : State) : Host.Outcome State Fault Refusal := readOccid 14#4 s

/-- OCCID.reserved_15: id 15 names no occupant and is read as empty (30_encoding.md R75). -/
def execOccidReserved15 (s : State) : Host.Outcome State Fault Refusal := readOccid 15#4 s

end Sys2Proof.Machine
end

