-- ==== Sys2Proof/Machine/PieceCodes12.lean ====
section
/-!
DEFINITION. The meanings of the 12-bit piece code rows (40_piece_code_table.md R113, R116): what a CMC-12 code slot
holding the pattern decodes to. The value goes to the caller (log 6). The rows are
named after the default table; with another table, an argument (00_scope.md R8), a pattern decodes as that table says.
-/

namespace Sys2Proof.Machine

/-- A CMC-12 code slot holding `c` is decoded by OCCUPANT_FOR (40_piece_code_table.md R120). -/
def readPc12 (T : Tables) (c : BitVec 12) (s : State) : Host.Outcome State Fault Refusal :=
  .next (s.withValue (.occupant (occupantFor T.cmc12 c)))

/-- PC12.empty: 0x000 is the code of empty (40_piece_code_table.md R113). -/
def execPc12Empty (s : State) (T : Tables := pct) : Host.Outcome State Fault Refusal :=
  readPc12 T 0x000#12 s

/-- PC12.P: 0x800 is the code of white pawn (40_piece_code_table.md R113). -/
def execPc12WhitePawn (s : State) (T : Tables := pct) : Host.Outcome State Fault Refusal :=
  readPc12 T 0x800#12 s

/-- PC12.N: 0x400 is the code of white knight (40_piece_code_table.md R113). -/
def execPc12WhiteKnight (s : State) (T : Tables := pct) : Host.Outcome State Fault Refusal :=
  readPc12 T 0x400#12 s

/-- PC12.B: 0x200 is the code of white bishop (40_piece_code_table.md R113). -/
def execPc12WhiteBishop (s : State) (T : Tables := pct) : Host.Outcome State Fault Refusal :=
  readPc12 T 0x200#12 s

/-- PC12.R: 0x100 is the code of white rook (40_piece_code_table.md R113). -/
def execPc12WhiteRook (s : State) (T : Tables := pct) : Host.Outcome State Fault Refusal :=
  readPc12 T 0x100#12 s

/-- PC12.Q: 0x080 is the code of white queen (40_piece_code_table.md R113). -/
def execPc12WhiteQueen (s : State) (T : Tables := pct) : Host.Outcome State Fault Refusal :=
  readPc12 T 0x080#12 s

/-- PC12.K: 0x040 is the code of white king (40_piece_code_table.md R113). -/
def execPc12WhiteKing (s : State) (T : Tables := pct) : Host.Outcome State Fault Refusal :=
  readPc12 T 0x040#12 s

/-- PC12.p: 0x020 is the code of black pawn (40_piece_code_table.md R113). -/
def execPc12BlackPawn (s : State) (T : Tables := pct) : Host.Outcome State Fault Refusal :=
  readPc12 T 0x020#12 s

/-- PC12.n: 0x010 is the code of black knight (40_piece_code_table.md R113). -/
def execPc12BlackKnight (s : State) (T : Tables := pct) : Host.Outcome State Fault Refusal :=
  readPc12 T 0x010#12 s

/-- PC12.b: 0x008 is the code of black bishop (40_piece_code_table.md R113). -/
def execPc12BlackBishop (s : State) (T : Tables := pct) : Host.Outcome State Fault Refusal :=
  readPc12 T 0x008#12 s

/-- PC12.r: 0x004 is the code of black rook (40_piece_code_table.md R113). -/
def execPc12BlackRook (s : State) (T : Tables := pct) : Host.Outcome State Fault Refusal :=
  readPc12 T 0x004#12 s

/-- PC12.q: 0x002 is the code of black queen (40_piece_code_table.md R113). -/
def execPc12BlackQueen (s : State) (T : Tables := pct) : Host.Outcome State Fault Refusal :=
  readPc12 T 0x002#12 s

/-- PC12.k: 0x001 is the code of black king (40_piece_code_table.md R113). -/
def execPc12BlackKing (s : State) (T : Tables := pct) : Host.Outcome State Fault Refusal :=
  readPc12 T 0x001#12 s

/-- PC12.unassigned: a pattern with two or more bits set decodes to empty (40_piece_code_table.md R116). -/
def execPc12Unassigned (c : BitVec 12) (s : State) (T : Tables := pct) : Host.Outcome State Fault Refusal :=
  readPc12 T c s

end Sys2Proof.Machine
end

