-- ==== Sys2Proof/Machine/PieceCodes4.lean ====
section
/-!
DEFINITION. The meanings of the 4-bit piece code rows (40_piece_code_table.md R112, R115): what a CMC-4 code slot
holding the pattern decodes to. The value goes to the caller (log 6). The rows are
named after the default table; with another table, an argument (00_scope.md R8), a pattern decodes as that table says.
-/

namespace Sys2Proof.Machine

/-- A CMC-4 code slot holding `c` is decoded by OCCUPANT_FOR (40_piece_code_table.md R120). -/
def readPc4 (T : Tables) (c : BitVec 4) (s : State) : Host.Outcome State Fault Refusal :=
  .next (s.withValue (.occupant (occupantFor T.cmc4 c)))

/-- PC4.empty: 0000 is the code of empty (40_piece_code_table.md R112). -/
def execPc4Empty (s : State) (T : Tables := pct) : Host.Outcome State Fault Refusal :=
  readPc4 T 0b0000#4 s

/-- PC4.P: 0001 is the code of white pawn (40_piece_code_table.md R112). -/
def execPc4WhitePawn (s : State) (T : Tables := pct) : Host.Outcome State Fault Refusal :=
  readPc4 T 0b0001#4 s

/-- PC4.N: 0010 is the code of white knight (40_piece_code_table.md R112). -/
def execPc4WhiteKnight (s : State) (T : Tables := pct) : Host.Outcome State Fault Refusal :=
  readPc4 T 0b0010#4 s

/-- PC4.B: 0011 is the code of white bishop (40_piece_code_table.md R112). -/
def execPc4WhiteBishop (s : State) (T : Tables := pct) : Host.Outcome State Fault Refusal :=
  readPc4 T 0b0011#4 s

/-- PC4.R: 0100 is the code of white rook (40_piece_code_table.md R112). -/
def execPc4WhiteRook (s : State) (T : Tables := pct) : Host.Outcome State Fault Refusal :=
  readPc4 T 0b0100#4 s

/-- PC4.Q: 0101 is the code of white queen (40_piece_code_table.md R112). -/
def execPc4WhiteQueen (s : State) (T : Tables := pct) : Host.Outcome State Fault Refusal :=
  readPc4 T 0b0101#4 s

/-- PC4.K: 0110 is the code of white king (40_piece_code_table.md R112). -/
def execPc4WhiteKing (s : State) (T : Tables := pct) : Host.Outcome State Fault Refusal :=
  readPc4 T 0b0110#4 s

/-- PC4.p: 1001 is the code of black pawn (40_piece_code_table.md R112). -/
def execPc4BlackPawn (s : State) (T : Tables := pct) : Host.Outcome State Fault Refusal :=
  readPc4 T 0b1001#4 s

/-- PC4.n: 1010 is the code of black knight (40_piece_code_table.md R112). -/
def execPc4BlackKnight (s : State) (T : Tables := pct) : Host.Outcome State Fault Refusal :=
  readPc4 T 0b1010#4 s

/-- PC4.b: 1011 is the code of black bishop (40_piece_code_table.md R112). -/
def execPc4BlackBishop (s : State) (T : Tables := pct) : Host.Outcome State Fault Refusal :=
  readPc4 T 0b1011#4 s

/-- PC4.r: 1100 is the code of black rook (40_piece_code_table.md R112). -/
def execPc4BlackRook (s : State) (T : Tables := pct) : Host.Outcome State Fault Refusal :=
  readPc4 T 0b1100#4 s

/-- PC4.q: 1101 is the code of black queen (40_piece_code_table.md R112). -/
def execPc4BlackQueen (s : State) (T : Tables := pct) : Host.Outcome State Fault Refusal :=
  readPc4 T 0b1101#4 s

/-- PC4.k: 1110 is the code of black king (40_piece_code_table.md R112). -/
def execPc4BlackKing (s : State) (T : Tables := pct) : Host.Outcome State Fault Refusal :=
  readPc4 T 0b1110#4 s

/-- PC4.unassigned_7: 0111 is no occupant's code and decodes to empty (40_piece_code_table.md R115). -/
def execPc4Unassigned7 (s : State) (T : Tables := pct) : Host.Outcome State Fault Refusal :=
  readPc4 T 0b0111#4 s

/-- PC4.unassigned_8: 1000 is no occupant's code and decodes to empty (40_piece_code_table.md R115). -/
def execPc4Unassigned8 (s : State) (T : Tables := pct) : Host.Outcome State Fault Refusal :=
  readPc4 T 0b1000#4 s

/-- PC4.unassigned_F: 1111 is no occupant's code and decodes to empty (40_piece_code_table.md R115). -/
def execPc4UnassignedF (s : State) (T : Tables := pct) : Host.Outcome State Fault Refusal :=
  readPc4 T 0b1111#4 s

end Sys2Proof.Machine
end

