-- ==== Sys2Proof/Machine/Transactions.lean ====
section
/-!
DEFINITION. The meanings of the two operations a host can request, ENCODE and DECODE (30_encoding.md R72), at an
edge with `rst = 0` and `req_valid = 1` (47_transaction_interface.md R205). Each takes the tables as an argument
(00_scope.md R8).
-/

namespace Sys2Proof.Machine

/-- ENCODE at instance `v`: ACCEPT with the encoded Bit Vector; never an error (42_encode.md R150, R152). -/
def execEncode (v : Variant) (r : ReqOperands v.width) (s : State) (T : Tables := pct) :
    Host.Outcome State Fault Refusal :=
  .next (s.accept v (respondEncode (T.of v) r))

/-- DECODE at instance `v`: ACCEPT with the decoded Position, or with `LengthMismatch` when the declared length is
not L (43_decode.md R160, R161). -/
def execDecode (v : Variant) (r : ReqOperands v.width) (s : State) (T : Tables := pct) :
    Host.Outcome State Fault Refusal :=
  .next (s.accept v (respondDecode (T.of v) r))

end Sys2Proof.Machine
end

