-- ==== Sys2Proof/Machine/Dispatch.lean ====
section
/-! DEFINITION. The meaning of each instruction, one arm for each row of spec/opcode_table.json. -/

namespace Sys2Proof.Machine

def exec (i : Instr) (s : State) : Host.Outcome State Fault Refusal :=
  match i with
  | .encode v r => Sys2Proof.Machine.execEncode v r s
  | .decode v r => Sys2Proof.Machine.execDecode v r s
  | .codeFor v id => Sys2Proof.Machine.execCodeFor v id s
  | .occupantForW4 c => Sys2Proof.Machine.execOccupantForW4 c s
  | .occupantForW12 c => Sys2Proof.Machine.execOccupantForW12 c s
  | .metaPack turn castle epSome ep => Sys2Proof.Machine.execMetaPack turn castle epSome ep s
  | .metaUnpack m => Sys2Proof.Machine.execMetaUnpack m s
  | .occidEmpty => Sys2Proof.Machine.execOccidEmpty s
  | .occidWhitePawn => Sys2Proof.Machine.execOccidWhitePawn s
  | .occidWhiteKnight => Sys2Proof.Machine.execOccidWhiteKnight s
  | .occidWhiteBishop => Sys2Proof.Machine.execOccidWhiteBishop s
  | .occidWhiteRook => Sys2Proof.Machine.execOccidWhiteRook s
  | .occidWhiteQueen => Sys2Proof.Machine.execOccidWhiteQueen s
  | .occidWhiteKing => Sys2Proof.Machine.execOccidWhiteKing s
  | .occidBlackPawn => Sys2Proof.Machine.execOccidBlackPawn s
  | .occidBlackKnight => Sys2Proof.Machine.execOccidBlackKnight s
  | .occidBlackBishop => Sys2Proof.Machine.execOccidBlackBishop s
  | .occidBlackRook => Sys2Proof.Machine.execOccidBlackRook s
  | .occidBlackQueen => Sys2Proof.Machine.execOccidBlackQueen s
  | .occidBlackKing => Sys2Proof.Machine.execOccidBlackKing s
  | .occidReserved13 => Sys2Proof.Machine.execOccidReserved13 s
  | .occidReserved14 => Sys2Proof.Machine.execOccidReserved14 s
  | .occidReserved15 => Sys2Proof.Machine.execOccidReserved15 s
  | .pc4Empty => Sys2Proof.Machine.execPc4Empty s
  | .pc4WhitePawn => Sys2Proof.Machine.execPc4WhitePawn s
  | .pc4WhiteKnight => Sys2Proof.Machine.execPc4WhiteKnight s
  | .pc4WhiteBishop => Sys2Proof.Machine.execPc4WhiteBishop s
  | .pc4WhiteRook => Sys2Proof.Machine.execPc4WhiteRook s
  | .pc4WhiteQueen => Sys2Proof.Machine.execPc4WhiteQueen s
  | .pc4WhiteKing => Sys2Proof.Machine.execPc4WhiteKing s
  | .pc4BlackPawn => Sys2Proof.Machine.execPc4BlackPawn s
  | .pc4BlackKnight => Sys2Proof.Machine.execPc4BlackKnight s
  | .pc4BlackBishop => Sys2Proof.Machine.execPc4BlackBishop s
  | .pc4BlackRook => Sys2Proof.Machine.execPc4BlackRook s
  | .pc4BlackQueen => Sys2Proof.Machine.execPc4BlackQueen s
  | .pc4BlackKing => Sys2Proof.Machine.execPc4BlackKing s
  | .pc4Unassigned7 => Sys2Proof.Machine.execPc4Unassigned7 s
  | .pc4Unassigned8 => Sys2Proof.Machine.execPc4Unassigned8 s
  | .pc4UnassignedF => Sys2Proof.Machine.execPc4UnassignedF s
  | .pc12Empty => Sys2Proof.Machine.execPc12Empty s
  | .pc12WhitePawn => Sys2Proof.Machine.execPc12WhitePawn s
  | .pc12WhiteKnight => Sys2Proof.Machine.execPc12WhiteKnight s
  | .pc12WhiteBishop => Sys2Proof.Machine.execPc12WhiteBishop s
  | .pc12WhiteRook => Sys2Proof.Machine.execPc12WhiteRook s
  | .pc12WhiteQueen => Sys2Proof.Machine.execPc12WhiteQueen s
  | .pc12WhiteKing => Sys2Proof.Machine.execPc12WhiteKing s
  | .pc12BlackPawn => Sys2Proof.Machine.execPc12BlackPawn s
  | .pc12BlackKnight => Sys2Proof.Machine.execPc12BlackKnight s
  | .pc12BlackBishop => Sys2Proof.Machine.execPc12BlackBishop s
  | .pc12BlackRook => Sys2Proof.Machine.execPc12BlackRook s
  | .pc12BlackQueen => Sys2Proof.Machine.execPc12BlackQueen s
  | .pc12BlackKing => Sys2Proof.Machine.execPc12BlackKing s
  | .pc12Unassigned c => Sys2Proof.Machine.execPc12Unassigned c s
  | .metaBlock m => Sys2Proof.Machine.execMetaBlock m s
  | .bv4 vec => Sys2Proof.Machine.execBv4 vec s
  | .bv12 vec => Sys2Proof.Machine.execBv12 vec s
  | .errNone => Sys2Proof.Machine.execErrNone s
  | .errLength => Sys2Proof.Machine.execErrLength s

end Sys2Proof.Machine
end

