-- ==== Sys2Proof/Machine/Run.lean ====
section
/-!
DEFINITION. What one input of the environment does: the clocked form of 47_transaction_interface.md R205, and the
evaluation of one word of the functional layer. What an instruction does is an argument, `run`: `step` gives it `exec`,
and the machine of any tables `execWith` of them (Machine/AnyTables.lean).
-/

namespace Sys2Proof.Machine

section
variable (run : Instr → State → Host.Outcome State Fault Refusal)

/-- Decode a word and run its instruction. -/
def runWord (w : Word) (s : State) : Host.Outcome State Fault Refusal :=
  match decodeWord w with
  | .ok i => run i s
  | .error _ => .refused .noSuchPort

/-- A rising edge of the clock of instance `v` (47_transaction_interface.md R205): reset first, else the presented
request, else the delivery of a waiting response. Where a port the request reads carries neither 0 nor 1, the
edge is outside the model if it would accept the request (70_reset_and_hazards.md R254;
93_implementation_defined.md I13; log 11). -/
def clockEdge (v : Variant) (rst : Bool) (req : Presented) (s : State) : Host.Outcome State Fault Refusal :=
  if rst then .next (s.resetEdge v)
  else match req with
    | .none => .next (s.deliver v)
    | .word bits => runWord run (.request v bits) s
    | .indefinite =>
      if reqReady false (s.codec v).respValid s.env.respReady then .refused .indefiniteInput else .next s

/-- One input of the environment. -/
def takeInput (x : Input) (s : State) : Host.Outcome State Fault Refusal :=
  match x with
  | .edge v rst respReady req => clockEdge run v rst req (s.withRespReady respReady)
  | .eval f bits => runWord run (.plain f bits) s

/-- The environment's next input. With nothing left to drive the machine is idle and nothing changes
(60_exceptions.md R234). -/
def takeNext (s : State) : Host.Outcome State Fault Refusal :=
  match s.env.inputs with
  | [] => .next s
  | x :: rest => takeInput run x (s.withInputs rest)

end

/-- The input that makes the next step run the instruction whose table word is `w` (log 7): a request is presented
at an edge with `rst = 0` and `resp_ready = 1`, so that it is accepted at once whatever is waiting. -/
def fetchInput (nbits w : Nat) : Input :=
  match tableWord nbits w with
  | .request v bits => .edge v false true (.word bits)
  | .plain f bits => .eval f bits

end Sys2Proof.Machine
end

