-- ==== Sys2Proof/Machine/Step.lean ====
section
/-!
DEFINITION. One step: the environment's next input. There is no program counter and no fetch from memory
(10_state.md R31, 20_memory.md R54); what a step "fetches" is what the host drives on the ports (log 1).
-/

namespace Sys2Proof.Machine

/-- One step, with the default tables. -/
def step (s : State) : Host.Outcome State Fault Refusal := takeNext exec s

/-- `s` with the instruction whose table word is `w` as the environment's next input. -/
def State.withFetchWord (s : State) (nbits w : Nat) : State :=
  s.withInputs (fetchInput nbits w :: s.env.inputs)

end Sys2Proof.Machine
end

