-- ==== Sys2Proof/Machine/AnyTables.lean ====
section
/-!
DEFINITION. The machine with its tables as an argument (00_scope.md R8, 92_eei_decisions.md D2,
93_implementation_defined.md I1). The types of `exec`, `step` and `core` have no place for that argument, and the
tables are no field of the state (10_state.md R37): `exec` and `step` are this machine at the default tables (log 4).
-/

namespace Sys2Proof.Machine

/-- `exec` of a machine built with the tables `T`: the same meanings, given `T`. -/
def execWith (T : Tables) (i : Instr) (s : State) : Host.Outcome State Fault Refusal :=
  match i with
  | .encode v r => execEncode v r s T
  | .decode v r => execDecode v r s T
  | .codeFor v id => execCodeFor v id s T
  | .occupantForW4 c => execOccupantForW4 c s T
  | .occupantForW12 c => execOccupantForW12 c s T
  | .metaPack turn castle epSome ep => execMetaPack turn castle epSome ep s
  | .metaUnpack m => execMetaUnpack m s
  | .occidEmpty => execOccidEmpty s
  | .occidWhitePawn => execOccidWhitePawn s
  | .occidWhiteKnight => execOccidWhiteKnight s
  | .occidWhiteBishop => execOccidWhiteBishop s
  | .occidWhiteRook => execOccidWhiteRook s
  | .occidWhiteQueen => execOccidWhiteQueen s
  | .occidWhiteKing => execOccidWhiteKing s
  | .occidBlackPawn => execOccidBlackPawn s
  | .occidBlackKnight => execOccidBlackKnight s
  | .occidBlackBishop => execOccidBlackBishop s
  | .occidBlackRook => execOccidBlackRook s
  | .occidBlackQueen => execOccidBlackQueen s
  | .occidBlackKing => execOccidBlackKing s
  | .occidReserved13 => execOccidReserved13 s
  | .occidReserved14 => execOccidReserved14 s
  | .occidReserved15 => execOccidReserved15 s
  | .pc4Empty => execPc4Empty s T
  | .pc4WhitePawn => execPc4WhitePawn s T
  | .pc4WhiteKnight => execPc4WhiteKnight s T
  | .pc4WhiteBishop => execPc4WhiteBishop s T
  | .pc4WhiteRook => execPc4WhiteRook s T
  | .pc4WhiteQueen => execPc4WhiteQueen s T
  | .pc4WhiteKing => execPc4WhiteKing s T
  | .pc4BlackPawn => execPc4BlackPawn s T
  | .pc4BlackKnight => execPc4BlackKnight s T
  | .pc4BlackBishop => execPc4BlackBishop s T
  | .pc4BlackRook => execPc4BlackRook s T
  | .pc4BlackQueen => execPc4BlackQueen s T
  | .pc4BlackKing => execPc4BlackKing s T
  | .pc4Unassigned7 => execPc4Unassigned7 s T
  | .pc4Unassigned8 => execPc4Unassigned8 s T
  | .pc4UnassignedF => execPc4UnassignedF s T
  | .pc12Empty => execPc12Empty s T
  | .pc12WhitePawn => execPc12WhitePawn s T
  | .pc12WhiteKnight => execPc12WhiteKnight s T
  | .pc12WhiteBishop => execPc12WhiteBishop s T
  | .pc12WhiteRook => execPc12WhiteRook s T
  | .pc12WhiteQueen => execPc12WhiteQueen s T
  | .pc12WhiteKing => execPc12WhiteKing s T
  | .pc12BlackPawn => execPc12BlackPawn s T
  | .pc12BlackKnight => execPc12BlackKnight s T
  | .pc12BlackBishop => execPc12BlackBishop s T
  | .pc12BlackRook => execPc12BlackRook s T
  | .pc12BlackQueen => execPc12BlackQueen s T
  | .pc12BlackKing => execPc12BlackKing s T
  | .pc12Unassigned c => execPc12Unassigned c s T
  | .metaBlock m => execMetaBlock m s
  | .bv4 vec => execBv4 vec s
  | .bv12 vec => execBv12 vec s
  | .errNone => execErrNone s
  | .errLength => execErrLength s

/-- One step of a machine built with the tables `T`. -/
def stepWith (T : Tables) (s : State) : Host.Outcome State Fault Refusal := takeNext (execWith T) s

/-- The machine built with the tables `T`. -/
def coreWith (T : Tables) : Host.Core where
  State := State
  Fault := Fault
  Refusal := Refusal
  step := stepWith T
  reset := State.reset

end Sys2Proof.Machine
end

