-- ==== Sys2Proof/Machine/Notation.lean ====
section
/-!
DEFINITION. The spec's text notation and the host-side expansion `to_symbol_grid` (30_encoding.md R88 to R91). None
of it is hardware, and no meaning uses it. The square names and letters are the notation's own (00_scope.md R15,
20_memory.md R42; log 15). Texts are lists of characters.
-/

namespace Sys2Proof.Machine

/-- The letter of an occupant (00_scope.md R15). -/
def letter : Occupant → Char
  | .empty => '.'
  | .piece .pawn .white => 'P'
  | .piece .knight .white => 'N'
  | .piece .bishop .white => 'B'
  | .piece .rook .white => 'R'
  | .piece .queen .white => 'Q'
  | .piece .king .white => 'K'
  | .piece .pawn .black => 'p'
  | .piece .knight .black => 'n'
  | .piece .bishop .black => 'b'
  | .piece .rook .black => 'r'
  | .piece .queen .black => 'q'
  | .piece .king .black => 'k'

/-- `file = i mod 8` (20_memory.md R41). -/
def fileOf (i : Square) : Fin 8 := Fin.ofNat 8 i.val

/-- `rank = i div 8` (20_memory.md R41). -/
def rankOf (i : Square) : Fin 8 := Fin.ofNat 8 (i.val / 8)

/-- `index = 8*rank + file` (20_memory.md R41). -/
def squareAt (rank file : Fin 8) : Square := ⟨8 * rank.val + file.val, by omega⟩

/-- The name of a square: file a..h, then the rank digit 1..8 (20_memory.md R42). -/
def squareName (i : Square) : List Char :=
  [Char.ofNat ('a'.toNat + (fileOf i).val), Char.ofNat ('1'.toNat + (rankOf i).val)]

/-- One row of the grid: rank `rank`, files in order. -/
def rankLetters (P : Position) (rank : Fin 8) : List Char :=
  (List.finRange 8).map fun c => letter (readSquare P (squareAt rank c))

/-- `to_symbol_grid`: row r is rank `7-r`, column c is file c (30_encoding.md R91). -/
def symbolGrid (P : Position) : List (List Char) := (List.finRange 8).map fun r => rankLetters P r.rev

/-- A rank of the placement field: a run of `n` empty squares is the digit `n` (30_encoding.md R89). `run` counts
the empty squares just passed. -/
def placementRank : List Char → Nat → List Char
  | [], run => if run = 0 then [] else [Nat.digitChar run]
  | c :: cs, run =>
    if c = '.' then placementRank cs (run + 1)
    else (if run = 0 then [] else [Nat.digitChar run]) ++ c :: placementRank cs 0

/-- The placement field: ranks 8 down to 1 separated by `/` (30_encoding.md R89). -/
def placementText (P : Position) : List Char :=
  ['/'].intercalate ((symbolGrid P).map fun r => placementRank r 0)

/-- The turn field (30_encoding.md R89). -/
def turnText : Color → List Char
  | .white => ['w']
  | .black => ['b']

/-- The castling field: the letters of the permissions held, or `-` (30_encoding.md R89). -/
def castlingText (m : Metadata) : List Char :=
  let t := (if m.wk then ['K'] else []) ++ (if m.wq then ['Q'] else []) ++
    (if m.bk then ['k'] else []) ++ (if m.bq then ['q'] else [])
  if t = [] then ['-'] else t

/-- The en-passant field with a square name (30_encoding.md R89). -/
def epText : Option Square → List Char
  | none => ['-']
  | some e => squareName e

/-- The en-passant field with a number, `#n` (30_encoding.md R89). -/
def epNumberText : Option Square → List Char
  | none => ['-']
  | some e => '#' :: Nat.toDigits 10 e.val

/-- A Position as four fields (30_encoding.md R89), the target written by `target`. -/
def positionText (target : Option Square → List Char) (P : Position) : List Char :=
  [' '].intercalate [placementText P, turnText P.turn, castlingText P.toMetadata, target P.ep]

/-- `n` hexadecimal digits of a number, most significant first. -/
def hexText : Nat → Nat → List Char
  | 0, _ => []
  | n + 1, x => hexText n (x / 16) ++ [(Nat.digitChar (x % 16)).toUpper]

/-- The bits of a sequence, first bit first. -/
def bitText {n : Nat} (s : BitVec n) : List Char := (List.range n).map fun k => if seqBit s k then '1' else '0'

/-- One rank of slots in hexadecimal, `W/4` digits a slot (30_encoding.md R90). -/
def slotGroup {W : Nat} (v : BitVec (vecLen W)) (rank : Fin 8) : List Char :=
  (List.finRange 8).flatMap fun f => hexText (W / 4) (slot v (squareAt rank f)).toNat

/-- A Bit Vector: the slots, a space after each rank, then ` | ` and the block as `t abcd eeeeee`
(30_encoding.md R90). -/
def vectorText {W : Nat} (v : BitVec (vecLen W)) : List Char :=
  let m := metaBlockOf v
  [' '].intercalate ((List.finRange 8).map (slotGroup v)) ++ [' ', '|', ' '] ++
    [' '].intercalate [bitText (slice m 0 1), bitText (slice m 1 4), bitText (slice m 5 6)]

/-- A request line (30_encoding.md R88). -/
def requestText {W : Nat} (op : BitVec 1) (r : ReqOperands W) : List Char :=
  if op = 0#1 then "ENCODE ".toList ++ positionText epText (posOfPorts r.pos)
  else "DECODE len=".toList ++ Nat.toDigits 10 r.len.toNat ++ ' ' ::
    (if lengthOk W r.len then vectorText r.vec else ['-'])

/-- A response line: `OK <vector>`, `OK <position>` or `ERR LENGTH` (30_encoding.md R88). -/
def responseText {W : Nat} (a : Resp W) : List Char :=
  if a.err = errLengthBit then "ERR LENGTH".toList
  else if a.op = 0#1 then "OK ".toList ++ vectorText a.vec
  else "OK ".toList ++ positionText epNumberText (posOfPorts a.pos)

end Sys2Proof.Machine
end

