-- ==== Sys2Proof/Safety.lean ====
section
/-!
DEFINITION. The terms claims use: well-formed responses, the invariant of the machine, inputs that can be driven,
and programs of transactions.
-/

namespace Sys2Proof.Machine

/-- The three shapes of a response (30_encoding.md R77): an ENCODE response, a decoded Position, or the error. -/
inductive RespShape {W : Nat} (T : PieceCodeTable W) (a : Resp W) : Prop where
  /-- An ENCODE response: no error, no Position, and every slot holds an assigned code. -/
  | encoded (op : a.op = 0#1) (err : a.err = 0#1) (pos : a.pos = zeroPos)
      (slots : ∀ i : Square, Assigned T (slot a.vec i))
  /-- A DECODE response: no vector, ids 0..12 only (30_encoding.md R75), and a target always present
  (41_metadata_block.md R137). -/
  | decoded (op : a.op = 1#1) (err : a.err = 0#1) (vec : a.vec = 0#(vecLen W))
      (ids : ∀ i : Square, a.pos.sq[i].toNat ≤ 12) (target : a.pos.epSome = 1#1)
  /-- The error response: every payload port 0. -/
  | lengthError (op : a.op = 1#1) (err : a.err = 1#1) (vec : a.vec = 0#(vecLen W)) (pos : a.pos = zeroPos)

/-- What a host can observe of an instance, now and in the past, is well formed: a waiting response and every
response taken have one of the three shapes. While `RESP_VALID = 0` the contents of `RESP` are anything
(47_transaction_interface.md R206). -/
structure CodecInv {W : Nat} (T : PieceCodeTable W) (c : Codec W) (taken : List (Resp W)) : Prop where
  waiting : c.respValid = true → RespShape T c.resp
  taken : ∀ a ∈ taken, RespShape T a

/-- The invariant of the machine built with the tables `T`: both instances. -/
def Inv (s : State) (T : Tables := pct) : Prop := ∀ v, CodecInv (T.of v) (s.codec v) (s.taken v)

/-- A word of the right width: its format has a port for every 1. -/
def WordFits : Word → Prop
  | .request v bits => bits < 2 ^ reqLen v.width
  | .plain f bits => bits < 2 ^ f.width

/-- An input a host can drive with definite values (70_reset_and_hazards.md R254). -/
def InputOk : Input → Prop
  | .edge v _ _ (.word bits) => WordFits (.request v bits)
  | .edge _ _ _ .none => True
  | .edge _ _ _ .indefinite => False
  | .eval f bits => WordFits (.plain f bits)

/-- A host that drives only such inputs. -/
def HostOk (s : State) : Prop := ∀ x ∈ s.env.inputs, InputOk x

/-- A request of an instance of width `W`: its operation code and operands (30_encoding.md R71). -/
structure Request (W : Nat) where
  op : BitVec 1
  operands : ReqOperands W
deriving DecidableEq, Repr

/-- One transaction on the pins of instance `v`: an edge that presents the request, then an edge that takes the
response (47_transaction_interface.md R203, R204). -/
def transaction (v : Variant) (q : Request v.width) : List Input :=
  [.edge v false false (.word (reqWord q.op q.operands).toNat), .edge v false true .none]

/-- A program: a sequence of transactions on one instance (30_encoding.md R88). -/
def programInputs (v : Variant) (qs : List (Request v.width)) : List Input := qs.flatMap (transaction v)

/-- The observable behaviour of a program: `F` of each request, in order (47_transaction_interface.md R210). -/
def programResponses {W : Nat} (T : PieceCodeTable W) (qs : List (Request W)) : List (Resp W) :=
  qs.map fun q => respond T q.op q.operands

end Sys2Proof.Machine
end

