-- ==== Sys2Proof/Certificates/Slice0/Obligations.lean ====
section
/-!
DEFINITION. The statements about the model. Statements about the functional layer hold for every Piece Code Table
(45_roundtrip_laws.md R193); statements about `exec` and `step` are about the default tables `pct` (log 4), statements about
`execWith` and `stepWith` about every table (00_scope.md R8). Every
statement about an instruction gives its whole next state: what is not named is unchanged.
-/

open Sys2Proof Sys2Proof.Machine

/-! ## The Piece Code Table -/

/-- 40_piece_code_table.md R114: `occupant_for` is a left inverse of `code_for`. -/
def Obligations.LookupInvertsCode : Prop :=
  ∀ (W : Nat) (T : PieceCodeTable W) (o : Occupant), occupantFor T (codeFor T o) = o

/-- 40_piece_code_table.md R115: the fallback for W = 4, and the patterns that decode to `empty` with the default
table. -/
def Obligations.FourBitFallback : Prop :=
  (∀ (T : PieceCodeTable 4) (c : BitVec 4), ¬ Assigned T c → occupantFor T c = .empty) ∧
  occupantFor pct4 0b0111#4 = .empty ∧ occupantFor pct4 0b1000#4 = .empty ∧ occupantFor pct4 0b1111#4 = .empty ∧
  (∀ c, occupantFor pct4 c = .empty ↔ c = 0b0000#4 ∨ c = 0b0111#4 ∨ c = 0b1000#4 ∨ c = 0b1111#4) ∧
  (∀ k col, ∃! c, occupantFor pct4 c = .piece k col)

/-- 40_piece_code_table.md R116: the fallback for W = 12; with the default table the all-zero pattern and those with
two or more bits set decode to `empty`, and no other. -/
def Obligations.TwelveBitFallback : Prop :=
  (∀ (T : PieceCodeTable 12) (c : BitVec 12), ¬ Assigned T c → occupantFor T c = .empty) ∧
  (∀ c, occupantFor pct12 c = .empty ↔ c = 0#12 ∨ twoOrMoreBits c = true) ∧
  occupantFor pct12 0b110000000000#12 = .empty ∧ occupantFor pct12 0b111111111111#12 = .empty

/-- 40_piece_code_table.md R113 and R111 (b): the default 12-bit table is one-hot on the pieces, the piece of id
`k` having the bit of value `2^(12-k)`, and every pattern with two or more bits is unassigned. -/
def Obligations.TwelveBitTableOneHot : Prop :=
  pct12.OneHot ∧ codeFor pct12 .empty = 0#12 ∧
  (∀ k col, codeFor pct12 (.piece k col) = BitVec.ofNat 12 (2 ^ (12 - (idOfOcc (.piece k col)).toNat))) ∧
  (∀ c, ¬ Assigned pct12 c ↔ twoOrMoreBits c = true)

/-- 30_encoding.md R74, R75: the ids of the 13 occupants are read back, ids 13 to 15 are read as `empty`, and no
response carries them. -/
def Obligations.OccupantIdsReadBack : Prop :=
  (∀ o, occOfId (idOfOcc o) = o ∧ (idOfOcc o).toNat ≤ 12) ∧
  (∀ x, occOfId x = .empty ↔ x = 0#4 ∨ x = 13#4 ∨ x = 14#4 ∨ x = 15#4)

/-! ## The metadata block -/

/-- 41_metadata_block.md R138: unpacking what was packed gives the metadata back, with `some 0` for `none`. -/
def Obligations.UnpackOfPack : Prop :=
  ∀ m : Metadata, metaUnpack (metaPack m) = { m with ep := some (m.ep.getD 0) }

/-- 41_metadata_block.md R139: packing what was unpacked gives the block back, and a block stands for one metadata
value with a target. -/
def Obligations.PackOfUnpack : Prop :=
  (∀ b : BitVec 11, metaPack (metaUnpack b) = b) ∧
  (∀ m : Metadata, m.ep ≠ none → metaUnpack (metaPack m) = m) ∧
  (∀ m : Metadata, m.ep = none → metaPack m = metaPack { m with ep := some 0 })

/-! ## ENCODE and DECODE as functions -/

/-- 45_roundtrip_laws.md R180: the round trip keeps every square, for every table. -/
def Obligations.RoundTripKeepsPlacement : Prop :=
  ∀ (W : Nat) (T : PieceCodeTable W) (P : Position) (i : Square),
    readSquare (decodeVector T (encodePosition T P)) i = readSquare P i

/-- 45_roundtrip_laws.md R181, R182: the round trip keeps the side to move and the four permissions, on every
board. -/
def Obligations.RoundTripKeepsTurnAndCastling : Prop :=
  ∀ (W : Nat) (T : PieceCodeTable W) (P : Position),
    (decodeVector T (encodePosition T P)).turn = P.turn ∧
    (decodeVector T (encodePosition T P)).wk = P.wk ∧ (decodeVector T (encodePosition T P)).wq = P.wq ∧
    (decodeVector T (encodePosition T P)).bk = P.bk ∧ (decodeVector T (encodePosition T P)).bq = P.bq

/-- 45_roundtrip_laws.md R183, R184: a target comes back as it was, and no target comes back as `some 0`. -/
def Obligations.RoundTripEnPassant : Prop :=
  ∀ (W : Nat) (T : PieceCodeTable W) (P : Position),
    (∀ e, P.ep = some e → (decodeVector T (encodePosition T P)).ep = some e) ∧
    (P.ep = none → (decodeVector T (encodePosition T P)).ep = some 0)

/-- 45_roundtrip_laws.md R188: DECODE of ENCODE is `norm` (`normPosition`), which is idempotent and is the identity exactly on the
Positions with a target. -/
def Obligations.RoundTripIsNorm : Prop :=
  ∀ (W : Nat) (T : PieceCodeTable W) (P : Position),
    decodeVector T (encodePosition T P) = normPosition P ∧ normPosition (normPosition P) = normPosition P ∧
    (normPosition P = P ↔ P.ep ≠ none)

/-- 45_roundtrip_laws.md R189: ENCODE is one-to-one up to the known defect. -/
def Obligations.EncodeInjectiveUpToDefect : Prop :=
  ∀ (W : Nat) (T : PieceCodeTable W) (P Q : Position),
    (encodePosition T P = encodePosition T Q ↔ normPosition P = normPosition Q) ∧
    (normPosition P = normPosition Q ↔ P = Q ∨
      ({ P with ep := none } = ({ Q with ep := none } : Position) ∧
        ((P.ep = none ∧ Q.ep = some 0) ∨ (P.ep = some 0 ∧ Q.ep = none))))

/-- 45_roundtrip_laws.md R190: ENCODE of DECODE replaces the unassigned slots by the code of `empty` and keeps the
last 11 bits. -/
def Obligations.EncodeOfDecode : Prop :=
  ∀ (W : Nat) (T : PieceCodeTable W) (v : BitVec (vecLen W)),
    (encodePosition T (decodeVector T v) = v ↔ ∀ i : Square, Assigned T (slot v i)) ∧
    (∀ i : Square, (Assigned T (slot v i) → slot (encodePosition T (decodeVector T v)) i = slot v i) ∧
      (¬ Assigned T (slot v i) → slot (encodePosition T (decodeVector T v)) i = codeFor T .empty)) ∧
    metaBlockOf (encodePosition T (decodeVector T v)) = metaBlockOf v

/-- 45_roundtrip_laws.md R191: going round twice is going round once. -/
def Obligations.RoundTripsIdempotent : Prop :=
  ∀ (W : Nat) (T : PieceCodeTable W),
    (∀ v, decodeVector T (encodePosition T (decodeVector T v)) = decodeVector T v) ∧
    (∀ P, encodePosition T (decodeVector T (encodePosition T P)) = encodePosition T P)

/-- 45_roundtrip_laws.md R192: a vector is an ENCODE result exactly when all its slots hold assigned codes. -/
def Obligations.ImageOfEncode : Prop :=
  ∀ (W : Nat) (T : PieceCodeTable W) (v : BitVec (vecLen W)),
    (∃ P, encodePosition T P = v) ↔ ∀ i : Square, Assigned T (slot v i)

/-- 45_roundtrip_laws.md R187: placement and metadata do not touch each other, field by field, in DECODE and in
ENCODE. `M` is the first index of the metadata block. -/
def Obligations.FieldIsolation : Prop :=
  ∀ (W : Nat) (T : PieceCodeTable W),
    (∀ v w : BitVec (vecLen W), let P := decodeVector T v; let Q := decodeVector T w; let M := 64 * W
      ((∀ k < 64 * W, seqBit v k = seqBit w k) → P.sq = Q.sq) ∧
      ((∀ k, M ≤ k → k < M + 11 → seqBit v k = seqBit w k) → P.toMetadata = Q.toMetadata) ∧
      (∀ i : Square, slot v i = slot w i → readSquare P i = readSquare Q i) ∧
      (seqBit v M = seqBit w M → P.turn = Q.turn) ∧
      (seqBit v (M + 1) = seqBit w (M + 1) → P.wk = Q.wk) ∧
      (seqBit v (M + 2) = seqBit w (M + 2) → P.wq = Q.wq) ∧
      (seqBit v (M + 3) = seqBit w (M + 3) → P.bk = Q.bk) ∧
      (seqBit v (M + 4) = seqBit w (M + 4) → P.bq = Q.bq) ∧
      ((∀ j < 6, seqBit v (M + 5 + j) = seqBit w (M + 5 + j)) → P.ep = Q.ep)) ∧
    (∀ P Q : Position, let v := encodePosition T P; let w := encodePosition T Q; let M := 64 * W
      (∀ i : Square, readSquare P i = readSquare Q i → slot v i = slot w i) ∧
      (P.turn = Q.turn → seqBit v M = seqBit w M) ∧
      (P.wk = Q.wk → seqBit v (M + 1) = seqBit w (M + 1)) ∧
      (P.wq = Q.wq → seqBit v (M + 2) = seqBit w (M + 2)) ∧
      (P.bk = Q.bk → seqBit v (M + 3) = seqBit w (M + 3)) ∧
      (P.bq = Q.bq → seqBit v (M + 4) = seqBit w (M + 4)) ∧
      (P.ep = Q.ep → ∀ j < 6, seqBit v (M + 5 + j) = seqBit w (M + 5 + j)))

/-- 43_decode.md R167: a decoded target is the six bits read as a number, never `none`; and the decoded Positions
are exactly those with a target. -/
def Obligations.DecodedTargets : Prop :=
  ∀ (W : Nat) (T : PieceCodeTable W),
    (∀ v, ((decodeVector T v).ep.map Fin.val) = some (slice v (64 * W + 5) 6).toNat) ∧
    (∀ P : Position, P.ep ≠ none ↔ ∃ v, decodeVector T v = P)

/-- 43_decode.md R161: the length decides everything. -/
def Obligations.LengthDecides : Prop :=
  ∀ (W n : Nat) (T : PieceCodeTable W) (v : BitVec n),
    (n ≠ vecLen W → decodeSequence T v = .error .lengthMismatch) ∧
    (n = vecLen W → ∃ P, decodeSequence T v = .ok P)

/-- 30_encoding.md R76, 43_decode.md R160: the ports of a DECODE of a bit sequence of ANY length (saturated at
1023) answer what `decode` of the sequence says, whatever the other ports carry. -/
def Obligations.PortsCarryAnyLength : Prop :=
  ∀ (v : Variant) (n : Nat) (bits : BitVec n) (any : ReqOperands v.width) (T : PieceCodeTable v.width),
    respondDecode T (decodeOperands bits any) =
      match decodeSequence T bits with
      | .ok P => { op := 1#1, err := 0#1, vec := 0#(vecLen v.width), pos := portsOfPos P }
      | .error _ => { op := 1#1, err := 1#1, vec := 0#(vecLen v.width), pos := zeroPos }

/-- 43_decode.md R160, R163, R164: the loop that fills a fresh Position square by square gives the same Position
whatever the fresh one held. -/
def Obligations.FreshPositionInvisible : Prop :=
  ∀ (W : Nat) (T : PieceCodeTable W) (fresh : Position) (v : BitVec (vecLen W)),
    decodeInto T fresh v = decodeVector T v

/-- 45_roundtrip_laws.md R195: the two variants agree on the last 11 bits and on the round trip, and refuse each
other's vectors. -/
def Obligations.AcrossVariants : Prop :=
  ∀ (T4 : PieceCodeTable 4) (T12 : PieceCodeTable 12) (P : Position),
    metaBlockOf (encodePosition T4 P) = metaBlockOf (encodePosition T12 P) ∧
    decodeVector T4 (encodePosition T4 P) = normPosition P ∧
    decodeVector T12 (encodePosition T12 P) = normPosition P ∧
    (∀ v : BitVec 267, decodeSequence T12 v = .error .lengthMismatch) ∧
    (∀ v : BitVec 779, decodeSequence T4 v = .error .lengthMismatch)

/-- 42_encode.md R156: with the default table the 1 bits of a CMC-12 placement region are as many as the pieces on
the board. -/
def Obligations.OneBitsCountPieces : Prop :=
  ∀ P : Position,
    (List.range 768).countP (fun k => seqBit (encodePosition pct12 P) k) =
      (List.finRange 64).countP (fun i => readSquare P i ≠ .empty)

/-- The board of 45_roundtrip_laws.md R186 by its occupant ids (95_test_vectors.md T4, E4), square 0 first. -/
def symbolGridBoard : Vector Occupant 64 :=
  Vector.ofFn fun i => occOfId (BitVec.ofNat 4
    (0x42356324111101110000000000001000000070000000000077770777A89BC98A / 16 ^ (63 - i.val)))

/-- The symbol grid of the round trip, for both variants and any metadata (after 45_roundtrip_laws.md R186,
30_encoding.md R91). Which square an index is and the letters of the grid are PRESUMED (log 15: square 0 is a1, the
usual letters), and the tables are the default ones (log 4), so the grid is the model's reading of the rule. -/
def Obligations.SymbolGridScenario : Prop :=
  ∀ (v : Variant) (m : Metadata),
    symbolGrid (decodeVector (pct.of v) (encodePosition (pct.of v) { toMetadata := m, sq := symbolGridBoard })) =
      ["rnbqkbnr".toList, "pppp.ppp".toList, "........".toList, "....p...".toList,
       "....P...".toList, "........".toList, "PPPP.PPP".toList, "RNBQKBNR".toList]

/-! ## The requests

The field `taken`, the responses the host has taken, is the model's own (log 12). -/

/-- 42_encode.md R150, R152, 47_transaction_interface.md R203, 30_encoding.md R77: where the instance is ready, an
ENCODE request is accepted and its response is, slot by slot, the codes of the occupants on the ports, and in the
last 11 bits the turn port, the castling ports and the target port (six zeros when there is no target). A response
that the host was taking is delivered. Nothing else changes. -/
def Obligations.EncodeAccepted : Prop :=
  ∀ (v : Variant) (r : ReqOperands v.width) (s : State),
    ((s.codec v).respValid = false ∨ s.env.respReady = true) →
    ∃ t, exec (.encode v r) s = .next t ∧
      (t.codec v).respValid = true ∧ (t.codec v).resp.op = 0#1 ∧ (t.codec v).resp.err = 0#1 ∧
      (t.codec v).resp.pos = zeroPos ∧
      (∀ i : Square, slot (t.codec v).resp.vec i = codeFor (pct.of v) (occOfId r.pos.sq[i])) ∧
      slice (t.codec v).resp.vec (64 * v.width) 1 = r.pos.turn ∧
      slice (t.codec v).resp.vec (64 * v.width + 1) 4 = r.pos.castle ∧
      slice (t.codec v).resp.vec (64 * v.width + 5) 6 = (if r.pos.epSome = 1#1 then r.pos.ep else 0#6) ∧
      t.taken v =
        (if (s.codec v).respValid = true then s.taken v ++ [(s.codec v).resp] else s.taken v) ∧
      (∀ w, w ≠ v → t.codec w = s.codec w ∧ t.taken w = s.taken w) ∧
      t.env.inputs = s.env.inputs ∧ t.env.respReady = s.env.respReady ∧ t.env.value = s.env.value

/-- 43_decode.md R160, R164, 41_metadata_block.md R131, R137: where the instance is ready and the declared length
is L, a DECODE request is accepted; square `i` of the response is the occupant of slot `i`, the turn and castling
ports are the block's bits, and a target is always present and is the six en-passant bits. -/
def Obligations.DecodeAccepted : Prop :=
  ∀ (v : Variant) (r : ReqOperands v.width) (s : State),
    ((s.codec v).respValid = false ∨ s.env.respReady = true) → r.len.toNat = vecLen v.width →
    ∃ t, exec (.decode v r) s = .next t ∧
      (t.codec v).respValid = true ∧ (t.codec v).resp.op = 1#1 ∧ (t.codec v).resp.err = 0#1 ∧
      (t.codec v).resp.vec = 0#(vecLen v.width) ∧
      (∀ i : Square, (t.codec v).resp.pos.sq[i] = idOfOcc (occupantFor (pct.of v) (slot r.vec i))) ∧
      (t.codec v).resp.pos.turn = slice r.vec (64 * v.width) 1 ∧
      (t.codec v).resp.pos.castle = slice r.vec (64 * v.width + 1) 4 ∧
      (t.codec v).resp.pos.epSome = 1#1 ∧
      (t.codec v).resp.pos.ep = slice r.vec (64 * v.width + 5) 6 ∧
      t.taken v =
        (if (s.codec v).respValid = true then s.taken v ++ [(s.codec v).resp] else s.taken v) ∧
      (∀ w, w ≠ v → t.codec w = s.codec w ∧ t.taken w = s.taken w) ∧
      t.env.inputs = s.env.inputs ∧ t.env.respReady = s.env.respReady ∧ t.env.value = s.env.value

/-- 60_exceptions.md R221, 43_decode.md R161, 30_encoding.md R77: a DECODE whose declared length is not L is
answered with `ERR_LENGTH` and every payload port 0, whatever the vector ports carry, and changes nothing else. -/
def Obligations.WrongLengthAnswered : Prop :=
  ∀ (v : Variant) (r : ReqOperands v.width) (s : State),
    ((s.codec v).respValid = false ∨ s.env.respReady = true) → r.len.toNat ≠ vecLen v.width →
    ∃ t, exec (.decode v r) s = .next t ∧
      (t.codec v).respValid = true ∧
      (t.codec v).resp = { op := 1#1, err := 1#1, vec := 0#(vecLen v.width), pos := zeroPos } ∧
      t.taken v =
        (if (s.codec v).respValid = true then s.taken v ++ [(s.codec v).resp] else s.taken v) ∧
      (∀ w, w ≠ v → t.codec w = s.codec w ∧ t.taken w = s.taken w) ∧
      t.env.inputs = s.env.inputs ∧ t.env.respReady = s.env.respReady ∧ t.env.value = s.env.value

/-- 47_transaction_interface.md R203, R205, 70_reset_and_hazards.md R258: while a response waits and the host does
not take it, a request is not accepted and nothing changes. This is where ENCODE and DECODE wait, not where they
complete. -/
def Obligations.BusyRequestWaits : Prop :=
  ∀ (v : Variant) (r : ReqOperands v.width) (s : State),
    (s.codec v).respValid = true → s.env.respReady = false →
    exec (.encode v r) s = .next s ∧ exec (.decode v r) s = .next s

/-- 30_encoding.md R71, R73, R86: the ports an operation ignores may carry anything. -/
def Obligations.IgnoredPorts : Prop :=
  ∀ (v : Variant) (r r' : ReqOperands v.width) (s : State),
    exec (.encode v { r with vec := r'.vec, len := r'.len }) s = exec (.encode v r) s ∧
    exec (.decode v { r with pos := r'.pos }) s = exec (.decode v r) s ∧
    (r.len.toNat ≠ vecLen v.width → exec (.decode v { r with vec := r'.vec }) s = exec (.decode v r) s) ∧
    (r.pos.epSome = 0#1 →
      exec (.encode v { r with pos := { r.pos with ep := r'.pos.ep } }) s = exec (.encode v r) s)

/-- 30_encoding.md R75: an ENCODE whose ports carry ids 13, 14 or 15 is answered as if they carried 0. -/
def Obligations.ReservedIdsEncodeAsEmpty : Prop :=
  ∀ (v : Variant) (r : ReqOperands v.width) (s : State),
    exec (.encode v { r with pos := { r.pos with sq := r.pos.sq.map fun x => if 13 ≤ x.toNat then 0#4 else x } }) s =
      exec (.encode v r) s

/-! ## The internal functions and the formats, evaluated on their own (log 6)

What each of these rows gives is the spec's; that its value is given to the caller, in the environment's field `value`, and nothing else changes, is
the model's choice (log 6). -/

/-- 40_piece_code_table.md R119, 30_encoding.md R75: CODE_FOR gives the code of the occupant the id names, with the
default tables (R112, R113); a reserved id gives the code of `empty`. -/
def Obligations.CodeForEvaluates : Prop :=
  ∀ (s : State),
    (∀ v o, exec (.codeFor v (idOfOcc o)) s = .next { s with env.value := .code v ((pct.of v).codeFor o) }) ∧
    (∀ v (id : BitVec 4), 13 ≤ id.toNat → exec (.codeFor v id) s = .next { s with env.value := .code v ((pct.of v).codeFor .empty) })

/-- 40_piece_code_table.md R120, R114 to R116: OCCUPANT_FOR gives the occupant whose code the pattern is, and
`empty` for every other pattern. -/
def Obligations.OccupantForEvaluates : Prop :=
  ∀ (s : State),
    (∀ o, exec (.occupantForW4 (code4 o)) s = .next { s with env.value := .occupant o }) ∧
    (∀ c, (∀ o, code4 o ≠ c) → exec (.occupantForW4 c) s = .next { s with env.value := .occupant .empty }) ∧
    (∀ o, exec (.occupantForW12 (code12 o)) s = .next { s with env.value := .occupant o }) ∧
    (∀ c, (∀ o, code12 o ≠ c) → exec (.occupantForW12 c) s = .next { s with env.value := .occupant .empty })

/-- 41_metadata_block.md R130: META_PACK gives turn, wk, wq, bk, bq and the target's six bits, or six zeros when
there is no target. -/
def Obligations.MetaPackEvaluates : Prop :=
  ∀ (turn : BitVec 1) (castle : BitVec 4) (epSome : BitVec 1) (ep : BitVec 6) (s : State),
    exec (.metaPack turn castle epSome ep) s =
      .next { s with env.value := .block (turn ++ castle ++ (if epSome = 1#1 then ep else 0#6)) }

/-- 41_metadata_block.md R131 to R133: META_UNPACK gives each field from its own bit, and always a target. -/
def Obligations.MetaUnpackEvaluates : Prop :=
  ∀ (m : BitVec 11) (s : State), ∃ e : Square, e.val = (slice m 5 6).toNat ∧
    exec (.metaUnpack m) s =
      .next { s with env.value := .metadata ⟨if seqBit m 0 then .black else .white,
        seqBit m 1, seqBit m 2, seqBit m 3, seqBit m 4, some e⟩ }

/-- 30_encoding.md R74, R75: the occupant each id row is read as. -/
def Obligations.OccidRowsEvaluate : Prop :=
  ∀ p ∈ ([(.occidEmpty, .empty), (.occidWhitePawn, .piece .pawn .white),
      (.occidWhiteKnight, .piece .knight .white), (.occidWhiteBishop, .piece .bishop .white),
      (.occidWhiteRook, .piece .rook .white), (.occidWhiteQueen, .piece .queen .white),
      (.occidWhiteKing, .piece .king .white), (.occidBlackPawn, .piece .pawn .black),
      (.occidBlackKnight, .piece .knight .black), (.occidBlackBishop, .piece .bishop .black),
      (.occidBlackRook, .piece .rook .black), (.occidBlackQueen, .piece .queen .black),
      (.occidBlackKing, .piece .king .black), (.occidReserved13, .empty), (.occidReserved14, .empty),
      (.occidReserved15, .empty)] : List (Instr × Occupant)),
    ∀ s, exec p.1 s = .next { s with env.value := .occupant p.2 }

/-- 40_piece_code_table.md R112, R115: the occupant each 4-bit code row decodes to. -/
def Obligations.FourBitRowsEvaluate : Prop :=
  ∀ p ∈ ([(.pc4Empty, .empty), (.pc4WhitePawn, .piece .pawn .white), (.pc4WhiteKnight, .piece .knight .white),
      (.pc4WhiteBishop, .piece .bishop .white), (.pc4WhiteRook, .piece .rook .white),
      (.pc4WhiteQueen, .piece .queen .white), (.pc4WhiteKing, .piece .king .white),
      (.pc4BlackPawn, .piece .pawn .black), (.pc4BlackKnight, .piece .knight .black),
      (.pc4BlackBishop, .piece .bishop .black), (.pc4BlackRook, .piece .rook .black),
      (.pc4BlackQueen, .piece .queen .black), (.pc4BlackKing, .piece .king .black), (.pc4Unassigned7, .empty),
      (.pc4Unassigned8, .empty), (.pc4UnassignedF, .empty)] : List (Instr × Occupant)),
    ∀ s, exec p.1 s = .next { s with env.value := .occupant p.2 }

/-- 40_piece_code_table.md R113, R116: the occupant each 12-bit code row decodes to. -/
def Obligations.TwelveBitRowsEvaluate : Prop :=
  (∀ p ∈ ([(.pc12Empty, .empty), (.pc12WhitePawn, .piece .pawn .white), (.pc12WhiteKnight, .piece .knight .white),
      (.pc12WhiteBishop, .piece .bishop .white), (.pc12WhiteRook, .piece .rook .white),
      (.pc12WhiteQueen, .piece .queen .white), (.pc12WhiteKing, .piece .king .white),
      (.pc12BlackPawn, .piece .pawn .black), (.pc12BlackKnight, .piece .knight .black),
      (.pc12BlackBishop, .piece .bishop .black), (.pc12BlackRook, .piece .rook .black),
      (.pc12BlackQueen, .piece .queen .black), (.pc12BlackKing, .piece .king .black)] : List (Instr × Occupant)),
    ∀ s, exec p.1 s = .next { s with env.value := .occupant p.2 }) ∧
  (∀ c s, twoOrMoreBits c = true → exec (.pc12Unassigned c) s = .next { s with env.value := .occupant .empty })

/-- 30_encoding.md R79, R80: META, BV4 and BV12 split a word at the places of the spec's tables. -/
def Obligations.FormatRowsEvaluate : Prop :=
  ∀ s : State,
    (∀ (t a b c d : BitVec 1) (e : BitVec 6),
      exec (.metaBlock (t ++ a ++ b ++ c ++ d ++ e)) s =
        .next { s with env.value := .metaFields { turn := t, wk := a, wq := b, bk := c, bq := d, ep := e } }) ∧
    (∀ vec : BitVec 267, ∃ (slots : Vector (BitVec 4) 64) (f : MetaFields),
      exec (.bv4 vec) s = .next { s with env.value := .vector .cmc4 slots f } ∧
      (∀ i : Square, slots[i] = slice vec (4 * i.val) 4) ∧
      f = { turn := slice vec 256 1, wk := slice vec 257 1, wq := slice vec 258 1, bk := slice vec 259 1,
            bq := slice vec 260 1, ep := slice vec 261 6 }) ∧
    (∀ vec : BitVec 779, ∃ (slots : Vector (BitVec 12) 64) (f : MetaFields),
      exec (.bv12 vec) s = .next { s with env.value := .vector .cmc12 slots f } ∧
      (∀ i : Square, slots[i] = slice vec (12 * i.val) 12) ∧
      f = { turn := slice vec 768 1, wk := slice vec 769 1, wq := slice vec 770 1, bk := slice vec 771 1,
            bq := slice vec 772 1, ep := slice vec 773 6 })

/-- 30_encoding.md R78: the two error codes. -/
def Obligations.ErrorCodeRowsEvaluate : Prop :=
  ∀ s, exec .errNone s = .next { s with env.value := .errCode .none } ∧
    exec .errLength s = .next { s with env.value := .errCode .length }

/-! ## Steps

That a step takes the next of a list of inputs, each the pins at one edge of one instance or one evaluation, is the
model's choice (log 1); so is the field `taken` (log 12). What happens at an edge is the spec's. -/

/-- A step runs the decoded instruction: at an edge with `rst = 0` that presents a request, and where a word of the
functional layer is evaluated, `step` is `exec` of what the word decodes to, on the state with that input consumed
and the `resp_ready` pin of that edge (the queue of inputs is the model's, log 1; the evaluation, log 6). -/
def Obligations.StepRunsDecoded : Prop :=
  (∀ (s : State) (v : Variant) (ready : Bool) (bits : Nat) (rest : List Input) (i : Instr),
    s.env.inputs = .edge v false ready (.word bits) :: rest → decodeWord (.request v bits) = .ok i →
    step s = exec i { s with env.inputs := rest, env.respReady := ready }) ∧
  (∀ (s : State) (f : Format) (bits : Nat) (rest : List Input) (i : Instr),
    s.env.inputs = .eval f bits :: rest → decodeWord (.plain f bits) = .ok i →
    step s = exec i { s with env.inputs := rest })

/-- 47_transaction_interface.md R202, R203, R205: at an edge with `rst = 0` that presents the ports of a request
to a ready instance, the step answers with `F` of the request; a waiting response is delivered at the same edge. -/
def Obligations.EdgeAcceptsRequest : Prop :=
  ∀ (s : State) (v : Variant) (ready : Bool) (q : Request v.width) (rest : List Input),
    s.env.inputs = .edge v false ready (.word (reqWord q.op q.operands).toNat) :: rest →
    ((s.codec v).respValid = false ∨ ready = true) →
    ∃ t, step s = .next t ∧ (t.codec v).respValid = true ∧
      (t.codec v).resp = respond (pct.of v) q.op q.operands ∧
      t.taken v =
        (if (s.codec v).respValid = true then s.taken v ++ [(s.codec v).resp] else s.taken v) ∧
      (∀ w, w ≠ v → t.codec w = s.codec w ∧ t.taken w = s.taken w) ∧ t.env.inputs = rest ∧ t.env.value = s.env.value

/-- 70_reset_and_hazards.md R250, R256: an edge with `rst = 1` clears `RESP_VALID`, writes nothing else, accepts no
request and delivers nothing, whatever is presented. That nothing is delivered also when `resp_ready` is 1 at that
edge is the model's reading of R205 and R256 (log 9). -/
def Obligations.ResetEdgeClears : Prop :=
  ∀ (s : State) (v : Variant) (ready : Bool) (req : Presented) (rest : List Input),
    s.env.inputs = .edge v true ready req :: rest →
    ∃ t, step s = .next t ∧ t.codec v = { s.codec v with respValid := false } ∧ t.taken v = s.taken v ∧
      (∀ w, w ≠ v → t.codec w = s.codec w ∧ t.taken w = s.taken w) ∧ t.env.inputs = rest ∧ t.env.value = s.env.value

/-- 47_transaction_interface.md R204, R205: an edge that presents no request delivers a waiting response exactly
when `resp_ready` is 1; `RESP` itself is left as it is. -/
def Obligations.DeliverEdge : Prop :=
  ∀ (s : State) (v : Variant) (ready : Bool) (rest : List Input),
    s.env.inputs = .edge v false ready .none :: rest →
    ∃ t, step s = .next t ∧ (t.codec v).resp = (s.codec v).resp ∧
      ((s.codec v).respValid = true ∧ ready = true →
        (t.codec v).respValid = false ∧ t.taken v = s.taken v ++ [(s.codec v).resp]) ∧
      ((s.codec v).respValid = false ∨ ready = false → t.codec v = s.codec v ∧ t.taken v = s.taken v) ∧
      (∀ w, w ≠ v → t.codec w = s.codec w ∧ t.taken w = s.taken w) ∧ t.env.inputs = rest ∧ t.env.value = s.env.value

/-- 47_transaction_interface.md R206, 70_reset_and_hazards.md R258: a waiting response stays on the ports, unchanged,
at every edge without reset at which the host does not take it; no request is accepted meanwhile. -/
def Obligations.WaitingResponseHeld : Prop :=
  ∀ (s t : State) (v : Variant) (req : Presented) (rest : List Input),
    s.env.inputs = .edge v false false req :: rest → (s.codec v).respValid = true → step s = .next t →
    t.codec v = s.codec v ∧ t.taken v = s.taken v ∧ (t.codec v).respPorts = some (s.codec v).resp

/-- 70_reset_and_hazards.md R254, 93_implementation_defined.md I13: what the model refuses: a request with an
indefinite port at the edge that would accept it, and a word with a 1 beyond the ports. Where the instance is not
ready an indefinite port does no harm. -/
def Obligations.RefusedInputs : Prop :=
  (∀ (s : State) (v : Variant) (ready : Bool) (rest : List Input),
    s.env.inputs = .edge v false ready .indefinite :: rest →
    ((s.codec v).respValid = false ∨ ready = true → step s = .refused .indefiniteInput) ∧
    ((s.codec v).respValid = true ∧ ready = false → ∃ t, step s = .next t ∧ ∀ w, t.codec w = s.codec w ∧ t.taken w = s.taken w)) ∧
  (∀ (s : State) (v : Variant) (ready : Bool) (bits : Nat) (rest : List Input),
    s.env.inputs = .edge v false ready (.word bits) :: rest → 2 ^ reqLen v.width ≤ bits →
    step s = .refused .noSuchPort) ∧
  (∀ (s : State) (f : Format) (bits : Nat) (rest : List Input),
    s.env.inputs = .eval f bits :: rest → 2 ^ f.width ≤ bits → step s = .refused .noSuchPort)

/-- 60_exceptions.md R234, R235, 00_scope.md R14: a host that drives definite values on existing ports is never
refused: every step has a next state, and the rest of its inputs are of the same kind. -/
def Obligations.DefiniteInputsNeverStop : Prop :=
  ∀ s : State, HostOk s → ∃ t, step s = .next t ∧ HostOk t

/-- 10_state.md R28: two states of the machine in which the same request is accepted give equal responses, whatever
else differs (earlier requests, waiting responses, the other instance, the other inputs). -/
def Obligations.SameRequestSameResponse : Prop :=
  ∀ (s s' t t' : State) (v : Variant) (ready ready' : Bool) (bits : Nat) (rest rest' : List Input),
    s.env.inputs = .edge v false ready (.word bits) :: rest → s'.env.inputs = .edge v false ready' (.word bits) :: rest' →
    ((s.codec v).respValid = false ∨ ready = true) → ((s'.codec v).respValid = false ∨ ready' = true) →
    step s = .next t → step s' = .next t' →
    (t.codec v).respValid = true ∧ (t'.codec v).respValid = true ∧ (t.codec v).resp = (t'.codec v).resp

/-- 60_exceptions.md R232: an edge at one instance leaves the other as it was, and an evaluation of the functional
layer leaves both. -/
def Obligations.InstancesIndependent : Prop :=
  (∀ (s t : State) (v w : Variant) (rst ready : Bool) (req : Presented) (rest : List Input),
    s.env.inputs = .edge v rst ready req :: rest → step s = .next t → w ≠ v →
    t.codec w = s.codec w ∧ t.taken w = s.taken w) ∧
  (∀ (s t : State) (f : Format) (bits : Nat) (rest : List Input),
    s.env.inputs = .eval f bits :: rest → step s = .next t → ∀ w, t.codec w = s.codec w ∧ t.taken w = s.taken w)

/-- 10_state.md R28, R35, R37: what a step does to the machine depends on the machine and on the input it takes, and
on nothing else of the environment: not on the inputs after it, on the responses taken, on the pin of an earlier edge or
on a value given earlier (the environment is the model's, log 1, 6, 12). -/
def Obligations.EnvironmentNotRead : Prop :=
  ∀ s s' t : State, s'.chip = s.chip → s'.env.inputs.head? = s.env.inputs.head? → step s = .next t →
    ∃ t', step s' = .next t' ∧ t'.chip = t.chip ∧ t'.env.inputs = s'.env.inputs.tail

/-- 47_transaction_interface.md R207, R210: from an instance with nothing waiting, a program of any requests is
answered in order, each exactly once, by `F`; nothing is left waiting and the other instance is untouched. -/
def Obligations.ProgramAnsweredInOrder : Prop :=
  ∀ (v : Variant) (qs : List (Request v.width)) (s : State),
    (s.codec v).respValid = false → s.env.inputs = programInputs v qs →
    ∃ t, Sys2Proof.core.run (2 * qs.length) s = .next t ∧ t.env.inputs = [] ∧ (t.codec v).respValid = false ∧
      t.taken v = s.taken v ++ programResponses (pct.of v) qs ∧
      (∀ w, w ≠ v → t.codec w = s.codec w ∧ t.taken w = s.taken w)

/-- 70_reset_and_hazards.md R254, R258: a request held stable through any number of edges at which the host does
not take the waiting response is accepted at the first edge at which it does. -/
def Obligations.HeldRequestAccepted : Prop :=
  ∀ (v : Variant) (q : Request v.width) (k : Nat) (s : State), (s.codec v).respValid = true →
    s.env.inputs = List.replicate k (.edge v false false (.word (reqWord q.op q.operands).toNat)) ++
      [.edge v false true (.word (reqWord q.op q.operands).toNat)] →
    ∃ t, Sys2Proof.core.run (k + 1) s = .next t ∧ t.env.inputs = [] ∧ (t.codec v).respValid = true ∧
      (t.codec v).resp = respond (pct.of v) q.op q.operands ∧
      t.taken v = s.taken v ++ [(s.codec v).resp]

/-! ## The tables as an argument (00_scope.md R8) -/

/-- A run of the host's machine is a run of the machine that takes the tables as an argument, at the default tables
(00_scope.md R8; log 4), from every state and for any number of steps. -/
def Obligations.RunsAreOfDefaultTables : Prop :=
  ∀ (k : Nat) (s : State), Sys2Proof.core.run k s = (coreWith pct).run k s

/-- 00_scope.md R8, 40_piece_code_table.md R111, 93_implementation_defined.md I1: whatever tables that meet R111 the
machine is built with, a request presented to a ready instance is answered by `F` of those tables, the lookups are
those of the tables, and every step keeps the invariant of response shapes for them. -/
def Obligations.EveryTableAnswered : Prop :=
  ∀ T : Tables,
    (∀ (s : State) (v : Variant) (ready : Bool) (q : Request v.width) (rest : List Input),
      s.env.inputs = .edge v false ready (.word (reqWord q.op q.operands).toNat) :: rest →
      ((s.codec v).respValid = false ∨ ready = true) →
      ∃ t, stepWith T s = .next t ∧ t.codec v = { respValid := true, resp := respond (T.of v) q.op q.operands } ∧
        t.taken v = (if (s.codec v).respValid = true then s.taken v ++ [(s.codec v).resp] else s.taken v) ∧
        (∀ w, w ≠ v → t.codec w = s.codec w ∧ t.taken w = s.taken w) ∧ t.env.inputs = rest ∧
        t.env.value = s.env.value) ∧
    (∀ (s : State) (v : Variant) (o : Occupant),
      execWith T (.codeFor v (idOfOcc o)) s = .next { s with env.value := .code v ((T.of v).codeFor o) }) ∧
    (∀ (s : State) (o : Occupant),
      execWith T (.occupantForW4 (T.cmc4.codeFor o)) s = .next { s with env.value := .occupant o } ∧
      execWith T (.occupantForW12 (T.cmc12.codeFor o)) s = .next { s with env.value := .occupant o }) ∧
    (∀ s t : State, Inv s T → stepWith T s = .next t → Inv t T)

/-! ## The invariant and reset -/

/-- 30_encoding.md R77, R75, 41_metadata_block.md R137: every step keeps the invariant that a waiting response and
every response taken have one of the three shapes of a response. From every state with it, not only from reset. -/
def Obligations.StepKeepsResponseShapes : Prop :=
  ∀ s t : State, Inv s → step s = .next t → Inv t

/-- The invariant holds after reset. -/
def Obligations.ResetHasResponseShapes : Prop := Inv State.reset

/-- After reset no response is waiting (10_state.md R36, 70_reset_and_hazards.md R250), and `req_ready` by the formula
of 47_transaction_interface.md R205 is 1 with `rst = 0`. That the response ports then give nothing to read is the
model's reading of R206 (log 13). -/
def Obligations.ResetLeavesNothingWaiting : Prop :=
  ∀ v, (State.reset.codec v).respValid = false ∧ (State.reset.codec v).respPorts = none ∧
    reqReady false (State.reset.codec v).respValid State.reset.env.respReady = true

/-- 60_exceptions.md R234: with nothing driven the machine is idle: nothing changes. -/
def Obligations.IdleStepChangesNothing : Prop :=
  ∀ s : State, s.env.inputs = [] → step s = .next s

/-! ## Encodings -/

/-- DECODE AND ENCODE AGREE: the word of every well-formed instruction decodes to it, every operand at every
value. -/
def Obligations.EncodedDecodesBack : Prop :=
  ∀ i : Instr, i.WellFormed = true → decodeWord (encodeInstr i) = .ok i

/-- And back: what a word decodes to is well formed and its word is that one, so no two words are one
instruction. -/
def Obligations.DecodedEncodesBack : Prop :=
  ∀ (w : Word) (i : Instr), decodeWord w = .ok i → i.WellFormed = true ∧ encodeInstr i = w

/-- 30_encoding.md R86: every word of its format's width is some instruction: nothing is illegal. -/
def Obligations.EveryWordDecodes : Prop :=
  ∀ w : Word, WordFits w ↔ ∃ i, decodeWord w = .ok i

/-- 30_encoding.md R72, R74, 40_piece_code_table.md R112, R113, 41_metadata_block.md R130: a few words written out
from the spec's encodings. -/
def Obligations.WordsReadAsTabled : Prop :=
  (∀ (v : Variant) (r : ReqOperands v.width),
    decodeWord (.request v (reqWord 0#1 r).toNat) = .ok (.encode v r) ∧
    decodeWord (.request v (reqWord 1#1 r).toNat) = .ok (.decode v r)) ∧
  decodeWord (.plain .occid 0b0111) = .ok .occidBlackPawn ∧
  decodeWord (.plain .pc4 0b0111) = .ok .pc4Unassigned7 ∧
  decodeWord (.plain .pc4 0b1001) = .ok .pc4BlackPawn ∧
  decodeWord (.plain .pc12 0b000001000000) = .ok .pc12WhiteKing ∧
  decodeWord (.plain .pc12 0b110000000000) = .ok (.pc12Unassigned 0xC00#12) ∧
  decodeWord (.plain .metaPack 0b111111010100) = .ok (.metaPack 1#1 0b1111#4 1#1 20#6) ∧
  decodeWord (.plain .err 0b1) = .ok .errLength
end

