-- ==== Sys2Proof/Laws/Bits.lean ====
section
/-!
SUPPORT. Slices of bit sequences: what lies where in a concatenation.
-/

namespace Sys2Proof.Machine

/-- Slot `i` of `n` concatenated slots. -/
theorem extract_concatSlots {W : Nat} : ∀ (n : Nat) (f : Fin n → BitVec W) (i : Fin n),
    (concatSlots n f).extractLsb' (W * (n - 1 - i.val)) W = f i := by
  intro n
  induction n with
  | zero => intro f i; exact i.elim0
  | succ n ih =>
    intro f i
    rcases Fin.eq_castSucc_or_eq_last i with ⟨j, rfl⟩ | rfl
    · have h := ih (fun k => f k.castSucc) j
      rw [← h]
      have hj := j.isLt
      have hk : W * (n + 1 - 1 - j.castSucc.val) = W * (n - 1 - j.val) + W := by
        rw [Fin.val_castSucc, ← Nat.mul_succ]
        congr 1
        omega
      ext k hk'
      simp only [BitVec.getElem_extractLsb', concatSlots, BitVec.getLsbD_append, hk]
      rw [if_neg (by omega)]
      congr 1
      omega
    · ext k hk'
      simp only [BitVec.getElem_extractLsb', concatSlots, BitVec.getLsbD_append, Fin.val_last]
      simp [hk']

/-- A slice that lies in the first part of a concatenation. -/
theorem extract_append_left {m n : Nat} (x : BitVec m) (y : BitVec n) (start len : Nat) (h : n ≤ start) :
    (x ++ y).extractLsb' start len = x.extractLsb' (start - n) len := by
  ext k hk
  simp only [BitVec.getElem_extractLsb', BitVec.getLsbD_append]
  rw [if_neg (by omega)]
  congr 1
  omega

/-- A slice that lies in the last part of a concatenation. -/
theorem extract_append_right {m n : Nat} (x : BitVec m) (y : BitVec n) (start len : Nat) (h : start + len ≤ n) :
    (x ++ y).extractLsb' start len = y.extractLsb' start len := by
  ext k hk
  simp only [BitVec.getElem_extractLsb', BitVec.getLsbD_append]
  rw [if_pos (by omega)]

/-- A slice of everything. -/
theorem extract_all {n : Nat} (x : BitVec n) : x.extractLsb' 0 n = x := by simp

/-- A cast of the width moves no bit. -/
theorem extract_cast {m n : Nat} (h : m = n) (x : BitVec m) (start len : Nat) :
    (x.cast h).extractLsb' start len = x.extractLsb' start len := by subst h; rfl

/-- Bit `j` of a slice is bit `k + j` of the sequence. -/
theorem seqBit_slice {m : Nat} (s : BitVec m) (k n j : Nat) (hj : j < n) (hk : k + n ≤ m) :
    seqBit (slice s k n) j = seqBit s (k + j) := by
  simp only [seqBit, slice, BitVec.getMsbD_eq_getLsbD, BitVec.getLsbD_extractLsb']
  have e : m - k - n + (n - 1 - j) = m - 1 - (k + j) := by omega
  simp [hj, e, show k + j < m by omega, show n - 1 - j < n by omega]

/-- Two sequences with the same bits are equal. -/
theorem eq_of_seqBit_eq {n : Nat} {s t : BitVec n} (h : ∀ k < n, seqBit s k = seqBit t k) : s = t := by
  apply BitVec.eq_of_getMsbD_eq
  intro k hk
  exact h k hk

end Sys2Proof.Machine
end

