-- ==== Sys2Proof/Laws/Codec.lean ====
section
/-!
SUPPORT. What the shared operations of the functional layer do, said once: callers cite these lemmas and do not
unfold the operations.
-/

namespace Sys2Proof.Machine

/-- The list of the 13 occupants is complete. -/
theorem mem_allOccupants (o : Occupant) : o ∈ allOccupants := by
  rcases o with _ | ⟨k, c⟩
  · decide
  · cases k <;> cases c <;> decide

section Defaults

@[simp] theorem pct_cmc4 : pct.cmc4 = pct4 := rfl
@[simp] theorem pct_cmc12 : pct.cmc12 = pct12 := rfl
@[simp] theorem Tables.of_cmc4 (T : Tables) : T.of .cmc4 = T.cmc4 := rfl
@[simp] theorem Tables.of_cmc12 (T : Tables) : T.of .cmc12 = T.cmc12 := rfl

end Defaults

section Table
variable {W : Nat} (T : PieceCodeTable W)

/-- All that OCCUPANT_FOR can give: the occupant whose code it is, or `empty` where it is no occupant's code. -/
theorem occupantFor_cases (c : BitVec W) :
    codeFor T (occupantFor T c) = c ∨ ((∀ o, codeFor T o ≠ c) ∧ occupantFor T c = .empty) := by
  unfold occupantFor
  cases h : allOccupants.find? (fun o => decide (codeFor T o = c)) with
  | none =>
    refine .inr ⟨fun o ho => ?_, rfl⟩
    have := List.find?_eq_none.mp h o (mem_allOccupants o)
    simp [ho] at this
  | some o =>
    have := List.find?_some h
    exact .inl (by simpa using this)

end Table

section Layout
variable {W : Nat} (T : PieceCodeTable W)

/-- Slot `i` of an encoded Position. -/
theorem slot_encodePosition (P : Position) (i : Square) :
    slot (encodePosition T P) i = codeFor T (readSquare P i) := by
  have hi := i.isLt
  have h := extract_concatSlots 64 (fun i => codeFor T (readSquare P i)) i
  rw [← h]
  have e1 : (W * (64 - 1 - i.val)) = 64 * W + 11 - i.val * W - W - 11 := by
    rw [show (64 - 1 - i.val) = 64 - (i.val + 1) by omega, Nat.mul_sub, Nat.mul_add, Nat.mul_comm W i.val]
    omega
  have e2 : i.val * W + W ≤ 64 * W := by nlinarith
  unfold slot slice encodePosition placementBits vecLen
  rw [extract_cast, extract_append_left _ _ _ _ (by omega), e1]

/-- The metadata block of an encoded Position. -/
theorem metaBlockOf_encodePosition (P : Position) :
    metaBlockOf (encodePosition T P) = metaPack P.toMetadata := by
  unfold metaBlockOf slice encodePosition vecLen
  rw [extract_cast, extract_append_right _ _ _ _ (by omega), show 64 * W + 11 - 64 * W - 11 = 0 by omega,
    extract_all]

/-- Every bit of a Bit Vector is in a slot or in the metadata block: two vectors that agree there are equal. -/
theorem vector_eq_of_slots {v w : BitVec (vecLen W)} (hs : ∀ i : Square, slot v i = slot w i)
    (hm : metaBlockOf v = metaBlockOf w) : v = w := by
  apply eq_of_seqBit_eq
  intro k hk
  by_cases hp : k < 64 * W
  · have hW : 0 < W := by
      rcases Nat.eq_zero_or_pos W with rfl | h
      · omega
      · exact h
    have hi : k / W < 64 := (Nat.div_lt_iff_lt_mul hW).mpr hp
    have hj := Nat.mod_lt k hW
    have hdiv : k / W * W + k % W = k := by rw [Nat.mul_comm]; exact Nat.div_add_mod k W
    have hfit : k / W * W + W ≤ vecLen W := by
      have : k / W * W + W ≤ 64 * W := by nlinarith
      simp only [vecLen]; omega
    have h := congrArg (fun s => seqBit s (k % W)) (hs ⟨k / W, hi⟩)
    simp only [slot] at h
    rwa [seqBit_slice _ _ _ _ hj hfit, seqBit_slice _ _ _ _ hj hfit, hdiv] at h
  · have hj : k - 64 * W < 11 := by simp only [vecLen] at hk; omega
    have h := congrArg (fun s => seqBit s (k - 64 * W)) hm
    simp only [metaBlockOf] at h
    rwa [seqBit_slice _ _ _ _ hj (by simp), seqBit_slice _ _ _ _ hj (by simp),
      show 64 * W + (k - 64 * W) = k by omega] at h

end Layout

section Metadata

/-- META_UNPACK as equalities of the fields (41_metadata_block.md R132): nothing of the old metadata survives. -/
theorem metaUnpackInto_eq (old : Metadata) (m : BitVec 11) :
    metaUnpackInto old m =
      { turn := colorOfBit (metaFieldsOf m).turn
        wk := bit2b (metaFieldsOf m).wk
        wq := bit2b (metaFieldsOf m).wq
        bk := bit2b (metaFieldsOf m).bk
        bq := bit2b (metaFieldsOf m).bq
        ep := some (squareOfBits (metaFieldsOf m).ep) } := by
  unfold metaUnpackInto grantCastling clearCastling bit2b
  by_cases h1 : (metaFieldsOf m).wk = 1#1 <;> by_cases h2 : (metaFieldsOf m).wq = 1#1 <;>
    by_cases h3 : (metaFieldsOf m).bk = 1#1 <;> by_cases h4 : (metaFieldsOf m).bq = 1#1 <;>
    simp [h1, h2, h3, h4]

end Metadata

section Squares

/-- Setting squares one after another leaves each listed square with its value and the metadata alone. -/
theorem foldl_writeSquare (f : Square → Occupant) : ∀ (l : List Square) (P : Position),
    (∀ i, readSquare (l.foldl (fun P i => writeSquare P i (f i)) P) i = if i ∈ l then f i else readSquare P i) ∧
    (l.foldl (fun P i => writeSquare P i (f i)) P).toMetadata = P.toMetadata := by
  intro l
  induction l with
  | nil => intro P; simp
  | cons a l ih =>
    intro P
    obtain ⟨h1, h2⟩ := ih (writeSquare P a (f a))
    refine ⟨fun i => ?_, by rw [List.foldl_cons, h2]; rfl⟩
    rw [List.foldl_cons, h1 i]
    by_cases hl : i ∈ l
    · simp [hl]
    · by_cases ha : i = a
      · subst ha
        simp [hl, readSquare, writeSquare]
      · have hne : a.val ≠ i.val := fun h => ha (Fin.ext h).symm
        simp [hl, ha, readSquare, writeSquare, hne]

end Squares

end Sys2Proof.Machine
end

