-- ==== Sys2Proof/Laws/Decode.lean ====
section
/-!
SUPPORT. The fields of a request word: what `reqOperands` reads from what `reqWord` wrote.
-/

namespace Sys2Proof

open Sys2Proof.Machine

/-- `fitsIn` is the usual bound. -/
theorem fitsIn_iff {n bits : Nat} : fitsIn n bits = true ↔ bits < 2 ^ n := by
  rw [fitsIn, beq_iff_eq, Nat.shiftRight_eq_div_pow, Nat.div_eq_zero_iff_lt (Nat.two_pow_pos n)]

section Request
variable {W : Nat} (op : BitVec 1) (r : ReqOperands W)

/-- The operation bit of a request word. -/
theorem reqWord_op : (reqWord op r).extractLsb' 0 1 = op := by
  unfold reqWord
  rw [extract_append_right _ _ _ _ (by omega), extract_all]

/-- The operation field of a request word is its parity. -/
theorem reqWord_mod_two : (reqWord op r).toNat % 2 = op.toNat := by
  have h := congrArg BitVec.toNat (reqWord_op op r)
  simpa only [BitVec.extractLsb'_toNat, Nat.shiftRight_zero, Nat.pow_one] using h

/-- The occupant id ports of a request word. -/
theorem reqWord_sq (i : Nat) (hi : i < 64) : (reqWord op r).extractLsb' (1 + 4 * i) 4 = r.pos.sq[i] := by
  unfold reqWord
  rw [extract_append_left _ _ _ _ (by omega), extract_append_right _ _ _ _ (by omega)]
  have h := extract_concatSlots 64 (fun i : Fin 64 => r.pos.sq[i.rev]) (Fin.rev ⟨i, hi⟩)
  simp only [Fin.rev_rev, Fin.val_rev] at h
  rw [show 1 + 4 * i - 1 = 4 * (64 - 1 - (64 - (i + 1))) by omega]
  exact h

theorem reqWord_turn : (reqWord op r).extractLsb' 257 1 = r.pos.turn := by
  unfold reqWord
  rw [extract_append_left _ _ _ _ (by omega), extract_append_left _ _ _ _ (by omega),
    extract_append_right _ _ _ _ (by omega), show 257 - 1 - 4 * 64 = 0 by omega, extract_all]

theorem reqWord_castle : (reqWord op r).extractLsb' 258 4 = r.pos.castle := by
  unfold reqWord
  rw [extract_append_left _ _ _ _ (by omega), extract_append_left _ _ _ _ (by omega),
    extract_append_left _ _ _ _ (by omega), extract_append_right _ _ _ _ (by omega),
    show 258 - 1 - 4 * 64 - 1 = 0 by omega, extract_all]

theorem reqWord_epSome : (reqWord op r).extractLsb' 262 1 = r.pos.epSome := by
  unfold reqWord
  rw [extract_append_left _ _ _ _ (by omega), extract_append_left _ _ _ _ (by omega),
    extract_append_left _ _ _ _ (by omega), extract_append_left _ _ _ _ (by omega),
    extract_append_right _ _ _ _ (by omega), show 262 - 1 - 4 * 64 - 1 - 4 = 0 by omega, extract_all]

theorem reqWord_ep : (reqWord op r).extractLsb' 263 6 = r.pos.ep := by
  unfold reqWord
  rw [extract_append_left _ _ _ _ (by omega), extract_append_left _ _ _ _ (by omega),
    extract_append_left _ _ _ _ (by omega), extract_append_left _ _ _ _ (by omega),
    extract_append_left _ _ _ _ (by omega), extract_append_right _ _ _ _ (by omega),
    show 263 - 1 - 4 * 64 - 1 - 4 - 1 = 0 by omega, extract_all]

theorem reqWord_vec : (reqWord op r).extractLsb' 269 (vecLen W) = r.vec := by
  unfold reqWord
  rw [extract_append_left _ _ _ _ (by omega), extract_append_left _ _ _ _ (by omega),
    extract_append_left _ _ _ _ (by omega), extract_append_left _ _ _ _ (by omega),
    extract_append_left _ _ _ _ (by omega), extract_append_left _ _ _ _ (by omega),
    extract_append_right _ _ _ _ (by omega), show 269 - 1 - 4 * 64 - 1 - 4 - 1 - 6 = 0 by omega, extract_all]

theorem reqWord_len : (reqWord op r).extractLsb' (269 + vecLen W) 10 = r.len := by
  unfold reqWord
  rw [extract_append_left _ _ _ _ (by omega), extract_append_left _ _ _ _ (by omega),
    extract_append_left _ _ _ _ (by omega), extract_append_left _ _ _ _ (by omega),
    extract_append_left _ _ _ _ (by omega), extract_append_left _ _ _ _ (by omega),
    extract_append_left _ _ _ _ (by omega),
    show 269 + vecLen W - 1 - 4 * 64 - 1 - 4 - 1 - 6 - vecLen W = 0 by omega, extract_all]

/-- What `reqOperands` reads is what `reqWord` wrote, every port. -/
theorem reqOperands_reqWord : reqOperands (reqWord op r) = r := by
  have hsq : (Vector.ofFn fun i : Fin 64 => (reqWord op r).extractLsb' (1 + 4 * i.val) 4) = r.pos.sq := by
    ext i hi
    rw [Vector.getElem_ofFn, reqWord_sq]
  unfold reqOperands
  rw [hsq, reqWord_turn, reqWord_castle, reqWord_epSome, reqWord_ep, reqWord_vec, reqWord_len]

end Request

end Sys2Proof
end

