-- ==== Sys2Proof/Laws/PerInstr.lean ====
section
/-!
SUPPORT. Facts about every instruction as syntax, one lemma for each constructor of Instr.
-/

-- One theorem after another: elaborating all of them at once asks for a thread each.
set_option Elab.async false
set_option exponentiation.threshold 1000

namespace Sys2Proof.Laws.EncodedFits

/-- The word of an instruction has no 1 beyond the ports of its format. -/
def Statement (i : Instr) : Prop := Machine.WordFits (encodeInstr i)

theorem encode (v : Variant) (r : ReqOperands v.width) : Statement (.encode v r) := BitVec.isLt _
theorem decode (v : Variant) (r : ReqOperands v.width) : Statement (.decode v r) := BitVec.isLt _
theorem codeFor (v : Variant) (id : BitVec 4) : Statement (.codeFor v id) := BitVec.isLt _
theorem occupantForW4 (c : BitVec 4) : Statement (.occupantForW4 c) := BitVec.isLt _
theorem occupantForW12 (c : BitVec 12) : Statement (.occupantForW12 c) := BitVec.isLt _
theorem metaPack (turn : BitVec 1) (castle : BitVec 4) (epSome : BitVec 1) (ep : BitVec 6) : Statement (.metaPack turn castle epSome ep) := BitVec.isLt _
theorem metaUnpack (m : BitVec 11) : Statement (.metaUnpack m) := BitVec.isLt _
theorem occidEmpty : Statement .occidEmpty := by simp [Statement, Machine.WordFits, encodeInstr, Format.width]
theorem occidWhitePawn : Statement .occidWhitePawn := by simp [Statement, Machine.WordFits, encodeInstr, Format.width]
theorem occidWhiteKnight : Statement .occidWhiteKnight := by simp [Statement, Machine.WordFits, encodeInstr, Format.width]
theorem occidWhiteBishop : Statement .occidWhiteBishop := by simp [Statement, Machine.WordFits, encodeInstr, Format.width]
theorem occidWhiteRook : Statement .occidWhiteRook := by simp [Statement, Machine.WordFits, encodeInstr, Format.width]
theorem occidWhiteQueen : Statement .occidWhiteQueen := by simp [Statement, Machine.WordFits, encodeInstr, Format.width]
theorem occidWhiteKing : Statement .occidWhiteKing := by simp [Statement, Machine.WordFits, encodeInstr, Format.width]
theorem occidBlackPawn : Statement .occidBlackPawn := by simp [Statement, Machine.WordFits, encodeInstr, Format.width]
theorem occidBlackKnight : Statement .occidBlackKnight := by simp [Statement, Machine.WordFits, encodeInstr, Format.width]
theorem occidBlackBishop : Statement .occidBlackBishop := by simp [Statement, Machine.WordFits, encodeInstr, Format.width]
theorem occidBlackRook : Statement .occidBlackRook := by simp [Statement, Machine.WordFits, encodeInstr, Format.width]
theorem occidBlackQueen : Statement .occidBlackQueen := by simp [Statement, Machine.WordFits, encodeInstr, Format.width]
theorem occidBlackKing : Statement .occidBlackKing := by simp [Statement, Machine.WordFits, encodeInstr, Format.width]
theorem occidReserved13 : Statement .occidReserved13 := by simp [Statement, Machine.WordFits, encodeInstr, Format.width]
theorem occidReserved14 : Statement .occidReserved14 := by simp [Statement, Machine.WordFits, encodeInstr, Format.width]
theorem occidReserved15 : Statement .occidReserved15 := by simp [Statement, Machine.WordFits, encodeInstr, Format.width]
theorem pc4Empty : Statement .pc4Empty := by simp [Statement, Machine.WordFits, encodeInstr, Format.width]
theorem pc4WhitePawn : Statement .pc4WhitePawn := by simp [Statement, Machine.WordFits, encodeInstr, Format.width]
theorem pc4WhiteKnight : Statement .pc4WhiteKnight := by simp [Statement, Machine.WordFits, encodeInstr, Format.width]
theorem pc4WhiteBishop : Statement .pc4WhiteBishop := by simp [Statement, Machine.WordFits, encodeInstr, Format.width]
theorem pc4WhiteRook : Statement .pc4WhiteRook := by simp [Statement, Machine.WordFits, encodeInstr, Format.width]
theorem pc4WhiteQueen : Statement .pc4WhiteQueen := by simp [Statement, Machine.WordFits, encodeInstr, Format.width]
theorem pc4WhiteKing : Statement .pc4WhiteKing := by simp [Statement, Machine.WordFits, encodeInstr, Format.width]
theorem pc4BlackPawn : Statement .pc4BlackPawn := by simp [Statement, Machine.WordFits, encodeInstr, Format.width]
theorem pc4BlackKnight : Statement .pc4BlackKnight := by simp [Statement, Machine.WordFits, encodeInstr, Format.width]
theorem pc4BlackBishop : Statement .pc4BlackBishop := by simp [Statement, Machine.WordFits, encodeInstr, Format.width]
theorem pc4BlackRook : Statement .pc4BlackRook := by simp [Statement, Machine.WordFits, encodeInstr, Format.width]
theorem pc4BlackQueen : Statement .pc4BlackQueen := by simp [Statement, Machine.WordFits, encodeInstr, Format.width]
theorem pc4BlackKing : Statement .pc4BlackKing := by simp [Statement, Machine.WordFits, encodeInstr, Format.width]
theorem pc4Unassigned7 : Statement .pc4Unassigned7 := by simp [Statement, Machine.WordFits, encodeInstr, Format.width]
theorem pc4Unassigned8 : Statement .pc4Unassigned8 := by simp [Statement, Machine.WordFits, encodeInstr, Format.width]
theorem pc4UnassignedF : Statement .pc4UnassignedF := by simp [Statement, Machine.WordFits, encodeInstr, Format.width]
theorem pc12Empty : Statement .pc12Empty := by simp [Statement, Machine.WordFits, encodeInstr, Format.width]
theorem pc12WhitePawn : Statement .pc12WhitePawn := by simp [Statement, Machine.WordFits, encodeInstr, Format.width]
theorem pc12WhiteKnight : Statement .pc12WhiteKnight := by simp [Statement, Machine.WordFits, encodeInstr, Format.width]
theorem pc12WhiteBishop : Statement .pc12WhiteBishop := by simp [Statement, Machine.WordFits, encodeInstr, Format.width]
theorem pc12WhiteRook : Statement .pc12WhiteRook := by simp [Statement, Machine.WordFits, encodeInstr, Format.width]
theorem pc12WhiteQueen : Statement .pc12WhiteQueen := by simp [Statement, Machine.WordFits, encodeInstr, Format.width]
theorem pc12WhiteKing : Statement .pc12WhiteKing := by simp [Statement, Machine.WordFits, encodeInstr, Format.width]
theorem pc12BlackPawn : Statement .pc12BlackPawn := by simp [Statement, Machine.WordFits, encodeInstr, Format.width]
theorem pc12BlackKnight : Statement .pc12BlackKnight := by simp [Statement, Machine.WordFits, encodeInstr, Format.width]
theorem pc12BlackBishop : Statement .pc12BlackBishop := by simp [Statement, Machine.WordFits, encodeInstr, Format.width]
theorem pc12BlackRook : Statement .pc12BlackRook := by simp [Statement, Machine.WordFits, encodeInstr, Format.width]
theorem pc12BlackQueen : Statement .pc12BlackQueen := by simp [Statement, Machine.WordFits, encodeInstr, Format.width]
theorem pc12BlackKing : Statement .pc12BlackKing := by simp [Statement, Machine.WordFits, encodeInstr, Format.width]
theorem pc12Unassigned (c : BitVec 12) : Statement (.pc12Unassigned c) := BitVec.isLt _
theorem metaBlock (m : BitVec 11) : Statement (.metaBlock m) := BitVec.isLt _
theorem bv4 (vec : BitVec 267) : Statement (.bv4 vec) := BitVec.isLt _
theorem bv12 (vec : BitVec 779) : Statement (.bv12 vec) := BitVec.isLt _
theorem errNone : Statement .errNone := by simp [Statement, Machine.WordFits, encodeInstr, Format.width]
theorem errLength : Statement .errLength := by simp [Statement, Machine.WordFits, encodeInstr, Format.width]

end Sys2Proof.Laws.EncodedFits
end

