-- ==== Sys2Proof/Laws/State.lean ====
section
/-!
SUPPORT. The small lemmas of the state: one for each field and each update, so that no later proof unfolds a record
update; and what ACCEPT, DELIVER and reset can do.
-/

namespace Sys2Proof.Machine

section Updates
variable (s : State) (v : Variant) (c : Codec v.width) (a : List (Resp v.width)) (l : List Input) (b : Bool)
  (x : FnValue)

@[simp] theorem setCodec_codec_self : (s.setCodec v c).codec v = c := by cases v <;> rfl

@[simp] theorem setCodec_codec_of_ne {w : Variant} (h : w ≠ v) : (s.setCodec v c).codec w = s.codec w := by
  cases v <;> cases w <;> first | rfl | exact absurd rfl h

@[simp] theorem setCodec_env : (s.setCodec v c).env = s.env := by cases v <;> rfl
@[simp] theorem setCodec_taken (w : Variant) : (s.setCodec v c).taken w = s.taken w := by
  cases v <;> cases w <;> rfl
@[simp] theorem setCodec_self : s.setCodec v (s.codec v) = s := by cases v <;> rfl

@[simp] theorem setTaken_taken_self : (s.setTaken v a).taken v = a := by cases v <;> rfl

@[simp] theorem setTaken_taken_of_ne {w : Variant} (h : w ≠ v) : (s.setTaken v a).taken w = s.taken w := by
  cases v <;> cases w <;> first | rfl | exact absurd rfl h

@[simp] theorem setTaken_chip : (s.setTaken v a).chip = s.chip := by cases v <;> rfl
@[simp] theorem setTaken_codec (w : Variant) : (s.setTaken v a).codec w = s.codec w := by
  cases v <;> cases w <;> rfl
@[simp] theorem setTaken_inputs : (s.setTaken v a).env.inputs = s.env.inputs := by cases v <;> rfl
@[simp] theorem setTaken_respReady : (s.setTaken v a).env.respReady = s.env.respReady := by cases v <;> rfl
@[simp] theorem setTaken_value : (s.setTaken v a).env.value = s.env.value := by cases v <;> rfl

@[simp] theorem withInputs_chip : (s.withInputs l).chip = s.chip := rfl
@[simp] theorem withInputs_codec : (s.withInputs l).codec v = s.codec v := by cases v <;> rfl
@[simp] theorem withInputs_taken : (s.withInputs l).taken v = s.taken v := by cases v <;> rfl
@[simp] theorem withInputs_inputs : (s.withInputs l).env.inputs = l := rfl
@[simp] theorem withInputs_respReady : (s.withInputs l).env.respReady = s.env.respReady := rfl
@[simp] theorem withInputs_value : (s.withInputs l).env.value = s.env.value := rfl

@[simp] theorem withRespReady_chip : (s.withRespReady b).chip = s.chip := rfl
@[simp] theorem withRespReady_codec : (s.withRespReady b).codec v = s.codec v := by cases v <;> rfl
@[simp] theorem withRespReady_taken : (s.withRespReady b).taken v = s.taken v := by cases v <;> rfl
@[simp] theorem withRespReady_inputs : (s.withRespReady b).env.inputs = s.env.inputs := rfl
@[simp] theorem withRespReady_respReady : (s.withRespReady b).env.respReady = b := rfl
@[simp] theorem withRespReady_value : (s.withRespReady b).env.value = s.env.value := rfl

@[simp] theorem withValue_chip : (s.withValue x).chip = s.chip := rfl
@[simp] theorem withValue_codec : (s.withValue x).codec v = s.codec v := by cases v <;> rfl
@[simp] theorem withValue_taken : (s.withValue x).taken v = s.taken v := by cases v <;> rfl
@[simp] theorem withValue_inputs : (s.withValue x).env.inputs = s.env.inputs := rfl
@[simp] theorem withValue_respReady : (s.withValue x).env.respReady = s.env.respReady := rfl
@[simp] theorem withValue_value : (s.withValue x).env.value = x := rfl

/-- Two states have the same machine part when they have the same two instances. -/
theorem chip_ext {s t : State} (h : ∀ v, s.codec v = t.codec v) : s.chip = t.chip := by
  have h4 : s.chip.cmc4 = t.chip.cmc4 := h .cmc4
  have h12 : s.chip.cmc12 = t.chip.cmc12 := h .cmc12
  cases hs : s.chip
  cases ht : t.chip
  simp_all

/-- ... and conversely. -/
theorem codec_of_chip {s t : State} (h : s.chip = t.chip) (v : Variant) : s.codec v = t.codec v := by
  cases v
  · exact congrArg Chip.cmc4 h
  · exact congrArg Chip.cmc12 h

end Updates

section Instances
variable {W : Nat} (c : Codec W) (a : Resp W)

/-- All that ACCEPT can do: the instance was ready and now holds the answer, or nothing changed. -/
theorem accept_cases (ready : Bool) :
    ((c.respValid = false ∨ ready = true) ∧ c.accept ready a = { respValid := true, resp := a }) ∨
    (c.respValid = true ∧ ready = false ∧ c.accept ready a = c) := by
  unfold Codec.accept reqReady
  cases h : c.respValid <;> cases ready <;> simp

/-- ACCEPT at an instance that is ready. -/
theorem accept_of_ready {ready : Bool} (h : c.respValid = false ∨ ready = true) :
    c.accept ready a = { respValid := true, resp := a } := by
  rcases accept_cases c a ready with ⟨-, h'⟩ | ⟨hv, hr, -⟩
  · exact h'
  · simp_all

/-- All that DELIVER can do: a waiting response is taken, or nothing changed. -/
theorem deliver_cases (ready : Bool) :
    (c.respValid = true ∧ ready = true ∧ c.deliver ready = { c with respValid := false }) ∨
    ((c.respValid = false ∨ ready = false) ∧ c.deliver ready = c) := by
  unfold Codec.deliver delivers
  cases h : c.respValid <;> cases ready <;> simp

end Instances

section Steps
variable (s : State) (v : Variant) (a : Resp v.width)

/-- What the host has taken after an edge: the list it had, and the waiting response if it was ready. -/
theorem observe_taken_self : (s.observe v).taken v =
    if (s.codec v).respValid = true ∧ s.env.respReady = true then s.taken v ++ [(s.codec v).resp]
    else s.taken v := by
  unfold State.observe delivers
  cases h : (s.codec v).respValid <;> cases s.env.respReady <;> simp

/-- ... as the statements say it, at an instance that is ready. -/
theorem observe_taken_of_ready (h : (s.codec v).respValid = false ∨ s.env.respReady = true) :
    (s.observe v).taken v =
      if (s.codec v).respValid = true then s.taken v ++ [(s.codec v).resp] else s.taken v := by
  rw [observe_taken_self]
  rcases h with h | h <;> simp [h]

/-- A host that is not ready observes nothing. -/
theorem observe_of_not_ready (h : s.env.respReady = false) : s.observe v = s := by
  simp [State.observe, delivers, h]

@[simp] theorem observe_taken_of_ne {w : Variant} (h : w ≠ v) : (s.observe v).taken w = s.taken w := by
  unfold State.observe; split <;> simp [h]
@[simp] theorem observe_codec (w : Variant) : (s.observe v).codec w = s.codec w := by
  unfold State.observe; split <;> simp
@[simp] theorem observe_inputs : (s.observe v).env.inputs = s.env.inputs := by
  unfold State.observe; split <;> simp
@[simp] theorem observe_respReady : (s.observe v).env.respReady = s.env.respReady := by
  unfold State.observe; split <;> simp
@[simp] theorem observe_value : (s.observe v).env.value = s.env.value := by
  unfold State.observe; split <;> simp

@[simp] theorem stateAccept_codec_self : (s.accept v a).codec v = (s.codec v).accept s.env.respReady a := by
  simp [State.accept]
@[simp] theorem stateAccept_codec_of_ne {w : Variant} (h : w ≠ v) : (s.accept v a).codec w = s.codec w := by
  simp [State.accept, h]
@[simp] theorem stateAccept_taken (w : Variant) : (s.accept v a).taken w = (s.observe v).taken w := by
  simp [State.accept]
@[simp] theorem stateAccept_inputs : (s.accept v a).env.inputs = s.env.inputs := by simp [State.accept]
@[simp] theorem stateAccept_respReady : (s.accept v a).env.respReady = s.env.respReady := by simp [State.accept]
@[simp] theorem stateAccept_value : (s.accept v a).env.value = s.env.value := by simp [State.accept]

/-- A request to an instance whose response is not taken changes nothing. -/
theorem stateAccept_of_busy (hv : (s.codec v).respValid = true) (hr : s.env.respReady = false) : s.accept v a = s := by
  rcases accept_cases (s.codec v) a s.env.respReady with ⟨h, -⟩ | ⟨-, -, h⟩
  · simp_all
  · rw [State.accept, observe_of_not_ready s v hr, h, setCodec_self]

@[simp] theorem stateDeliver_codec_self : (s.deliver v).codec v = (s.codec v).deliver s.env.respReady := by
  simp [State.deliver]
@[simp] theorem stateDeliver_codec_of_ne {w : Variant} (h : w ≠ v) : (s.deliver v).codec w = s.codec w := by
  simp [State.deliver, h]
@[simp] theorem stateDeliver_taken (w : Variant) : (s.deliver v).taken w = (s.observe v).taken w := by
  simp [State.deliver]
@[simp] theorem stateDeliver_inputs : (s.deliver v).env.inputs = s.env.inputs := by simp [State.deliver]
@[simp] theorem stateDeliver_respReady : (s.deliver v).env.respReady = s.env.respReady := by simp [State.deliver]
@[simp] theorem stateDeliver_value : (s.deliver v).env.value = s.env.value := by simp [State.deliver]

@[simp] theorem stateReset_codec_self : (s.resetEdge v).codec v = (s.codec v).resetEdge := by simp [State.resetEdge]
@[simp] theorem stateReset_codec_of_ne {w : Variant} (h : w ≠ v) : (s.resetEdge v).codec w = s.codec w := by
  simp [State.resetEdge, h]
@[simp] theorem stateReset_taken (w : Variant) : (s.resetEdge v).taken w = s.taken w := by simp [State.resetEdge]
@[simp] theorem stateReset_env : (s.resetEdge v).env = s.env := by simp [State.resetEdge]

end Steps

end Sys2Proof.Machine
end

