-- ==== Sys2Proof/Laws/Step.lean ====
section
/-!
SUPPORT. What an instruction and a step can do, said once and for any tables: an instruction either presents a request
to one instance or gives a value of the functional layer; a step does one of six things.
-/

namespace Sys2Proof.Machine

/-- A run takes one step and goes on from there. -/
theorem run_succ_of_next (M : Host.Core) (k : Nat) (s t : M.State) (h : M.step s = .next t) :
    M.run (k + 1) s = M.run k t := by simp only [Host.Core.run, h]

/-- All that a decoded word can do in a machine of the tables `T`, where `run` gives the instructions' meanings: a
request word presents its request, a word of another format gives one value, whatever the state. -/
structure Runs (T : Tables) (run : Instr → State → Host.Outcome State Fault Refusal) : Prop where
  request : ∀ (v : Variant) (bits : Nat) (s : State), run (decodeRequest v bits) s =
    .next (s.accept v (respond (T.of v) (BitVec.ofNat 1 bits) (reqOperands (BitVec.ofNat (reqLen v.width) bits))))
  plain : ∀ (f : Format) (bits : Nat), ∃ x, ∀ s, run (decodePlain f bits) s = .next (s.withValue x)

/-- The operation field of a request word is its parity. -/
theorem ofNat_one_eq_zero_iff (bits : Nat) : BitVec.ofNat 1 bits = 0#1 ↔ bits % 2 = 0 := by
  rw [← BitVec.toNat_inj]
  simp

/-- The machine of any tables does no more. -/
theorem execWith_runs (T : Tables) : Runs T (execWith T) where
  request v bits s := by
    unfold decodeRequest respond
    by_cases h : bits % 2 = 0
    · rw [if_pos h, if_pos ((ofNat_one_eq_zero_iff bits).2 h)]; rfl
    · rw [if_neg h, if_neg (fun h' => h ((ofNat_one_eq_zero_iff bits).1 h'))]; rfl
  plain f bits := by
    cases f
    case occid => simp only [decodePlain, decodeOccid]; split <;> exact ⟨_, fun _ => rfl⟩
    case pc4 => simp only [decodePlain, decodePc4]; split <;> exact ⟨_, fun _ => rfl⟩
    case pc12 => simp only [decodePlain, decodePc12]; split <;> exact ⟨_, fun _ => rfl⟩
    case err => simp only [decodePlain, decodeErr]; split <;> exact ⟨_, fun _ => rfl⟩
    all_goals exact ⟨_, fun _ => rfl⟩

/-- `exec` is the machine of the default tables. -/
theorem exec_eq_execWith : exec = execWith pct := by
  funext i s
  cases i <;> rfl

/-- So `exec` does no more, with the default tables. -/
theorem exec_runs : Runs pct exec := exec_eq_execWith ▸ execWith_runs pct

/-- What one step with a next state did: nothing, a reset edge, a delivery, a request, an edge at a busy instance
whose ports were not read, or an evaluation. -/
inductive Stepped (T : Tables) (s t : State) : Prop where
  | idle (inputs : s.env.inputs = []) (eq : t = s)
  | reset (v : Variant) (ready : Bool) (req : Presented) (rest : List Input)
      (inputs : s.env.inputs = .edge v true ready req :: rest)
      (eq : t = ((s.withInputs rest).withRespReady ready).resetEdge v)
  | deliver (v : Variant) (ready : Bool) (rest : List Input) (inputs : s.env.inputs = .edge v false ready .none :: rest)
      (eq : t = ((s.withInputs rest).withRespReady ready).deliver v)
  | request (v : Variant) (ready : Bool) (bits : Nat) (rest : List Input)
      (inputs : s.env.inputs = .edge v false ready (.word bits) :: rest) (fits : bits < 2 ^ reqLen v.width)
      (eq : t = ((s.withInputs rest).withRespReady ready).accept v
        (respond (T.of v) (BitVec.ofNat 1 bits) (reqOperands (BitVec.ofNat (reqLen v.width) bits))))
  | busy (v : Variant) (rest : List Input) (inputs : s.env.inputs = .edge v false false .indefinite :: rest)
      (valid : (s.codec v).respValid = true) (eq : t = (s.withInputs rest).withRespReady false)
  | evaluated (f : Format) (bits : Nat) (rest : List Input) (x : FnValue)
      (inputs : s.env.inputs = .eval f bits :: rest) (fits : bits < 2 ^ f.width)
      (eq : t = (s.withInputs rest).withValue x)

/-- All that a step with a next state can do. -/
theorem Runs.takeNext_cases {T : Tables} {run : Instr → State → Host.Outcome State Fault Refusal} (hr : Runs T run)
    {s t : State} (h : takeNext run s = .next t) : Stepped T s t := by
  unfold takeNext at h
  split at h
  · exact .idle ‹_› (Host.Outcome.next.inj h).symm
  · rename_i x rest hin
    cases x with
    | edge v rst ready req =>
      simp only [takeInput, clockEdge] at h
      cases rst with
      | true => exact .reset v ready req rest hin (Host.Outcome.next.inj h).symm
      | false =>
        rw [if_neg (by decide)] at h
        cases req with
        | none => exact .deliver v ready rest hin (Host.Outcome.next.inj h).symm
        | word bits =>
          simp only [runWord, decodeWord] at h
          by_cases hb : fitsIn (reqLen v.width) bits = true
          · simp only [hb, if_true, hr.request] at h
            exact .request v ready bits rest hin (fitsIn_iff.1 hb) (Host.Outcome.next.inj h).symm
          · simp [hb] at h
        | indefinite =>
          simp only [withRespReady_codec, withInputs_codec, withRespReady_respReady] at h
          by_cases hq : reqReady false (s.codec v).respValid ready = true
          · rw [if_pos hq] at h; cases h
          · rw [if_neg hq] at h
            have hq' : (s.codec v).respValid = true ∧ ready = false := by simp_all [reqReady]
            rw [hq'.2] at hin h
            exact .busy v rest hin hq'.1 (Host.Outcome.next.inj h).symm
    | eval f bits =>
      simp only [takeInput, runWord, decodeWord] at h
      by_cases hb : fitsIn f.width bits = true
      · obtain ⟨x, hx⟩ := hr.plain f bits
        simp only [hb, if_true, hx] at h
        exact .evaluated f bits rest x hin (fitsIn_iff.1 hb) (Host.Outcome.next.inj h).symm
      · simp [hb] at h

/-- All that `step` can do. -/
theorem step_cases {s t : State} (h : step s = .next t) : Stepped pct s t := exec_runs.takeNext_cases h

/-- All that a step of a machine of any tables can do. -/
theorem stepWith_cases {T : Tables} {s t : State} (h : stepWith T s = .next t) : Stepped T s t :=
  (execWith_runs T).takeNext_cases h

end Sys2Proof.Machine
end

