-- ==== Sys2Proof/Tests/Slice0.lean ====
section
/-!
SUPPORT. Tests. Words are written out from the layout of 30_encoding.md and the tables of 40_piece_code_table.md;
expected results are from 95_test_vectors.md (its names E3, D3, ... are cited). After the tests, for every statement
with hypotheses a concrete state and operands that meet them.
-/

-- One theorem after another: elaborating all of them at once asks for a thread each.
set_option Elab.async false
set_option exponentiation.threshold 2000

namespace Sys2Proof.Machine.Tests

/-- The word decodes to the instruction, and its encoding is the word. -/
def decodesTo (w : Word) (i : Instr) : Bool :=
  (match decodeWord w with
    | .ok j => decide (j = i)
    | .error _ => false) && decide (encodeInstr i = w)

/-- All words of one format, by their bits. -/
def allDecode (f : Format) (rows : List (Nat × Instr)) : Bool := rows.all fun p => decodesTo (.plain f p.1) p.2

/-- Position ports: 64 hexadecimal ids, square 0 first (30_encoding.md R74). -/
def ports (ids : Nat) (turn : BitVec 1) (castle : BitVec 4) (epSome : BitVec 1) (ep : BitVec 6) : PosPorts where
  sq := Vector.ofFn fun i => BitVec.ofNat 4 (ids / 16 ^ (63 - i.val))
  turn := turn
  castle := castle
  epSome := epSome
  ep := ep

/-- An ENCODE request: the vector and length ports at 0. -/
def encodeOf (W : Nat) (p : PosPorts) : ReqOperands W := ⟨p, 0#(vecLen W), 0#10⟩

/-- A DECODE request: the Position ports at 0. -/
def decodeOf (W : Nat) (len : Nat) (vec : Nat) : ReqOperands W :=
  ⟨zeroPos, BitVec.ofNat (vecLen W) vec, BitVec.ofNat 10 len⟩

/-- The response that a request to a machine after reset is answered with. -/
def answer (v : Variant) (op : BitVec 1) (r : ReqOperands v.width) : Option (Resp v.width) :=
  match exec (if op = 0#1 then .encode v r else .decode v r) State.reset with
  | .next t => (t.codec v).respPorts
  | _ => none

/-- The value a functional-layer instruction gives. -/
def fnOf (i : Instr) : FnValue :=
  match exec i State.reset with
  | .next t => t.env.value
  | _ => .none

/-- The state after one step, if there is one. -/
def after (o : Host.Outcome State Fault Refusal) (p : State → Bool) : Bool :=
  match o with
  | .next t => p t
  | _ => false

theorem next_of_after {o : Host.Outcome State Fault Refusal} {p : State → Bool} (h : after o p = true) :
    ∃ t, o = .next t := by
  cases o with
  | next t => exact ⟨t, rfl⟩
  | fault r => cases h
  | refused r => cases h

def e3Ids : Nat := 0x42356324111101110000000000001000000000000000000077777777A89BC98A
def e3Ports : PosPorts := ports e3Ids 1#1 0b1111#4 1#1 20#6
/-- E3's CMC-4 vector, `| 1 1111 010100`. -/
def e3Vec4 : Nat := 0x42356324111101110000000000001000000000000000000099999999CABDEBAC * 2048 + 0b11111010100
def e8Ports : PosPorts := ports 0x12345600789ABC00000000000000000000000000000000000000000000000000 0#1 0#4 0#1 0#6
/-- Bits ignored by ENCODE when there is no target. -/
def e9Ports : PosPorts := ports 0xD0E0F00000000000000000000000000000000000000000000000000000000000 0#1 0#4 0#1 63#6
def d3Vec : Nat := 0x78F07F800000000000000000000000000000000000000000000000000000000E * 2048 + 0b10101000001
def d5Vec : Nat := 0x800801C00000FFF001003040000000000000000000000000000000000000000000000000000000000000000000000000000000000000000000000000000000000000000000000000000000000000000000000000000000000000000000000002 * 2048 + 0b01000100000

/-! ## Well-formedness -/

theorem test_wellFormed_refuses_one_bit : (Instr.pc12Unassigned 0x800#12).WellFormed = false := by decide
theorem test_wellFormed_refuses_no_bit : (Instr.pc12Unassigned 0x000#12).WellFormed = false := by decide
theorem test_wellFormed_accepts_two_bits : (Instr.pc12Unassigned 0xC00#12).WellFormed = true := by decide

/-! ## Decoding, word by word -/

/-- 30_encoding.md R74, R75. -/
theorem test_decode_occid : allDecode .occid
    [(0, .occidEmpty), (1, .occidWhitePawn), (2, .occidWhiteKnight), (3, .occidWhiteBishop),
     (4, .occidWhiteRook), (5, .occidWhiteQueen), (6, .occidWhiteKing), (7, .occidBlackPawn),
     (8, .occidBlackKnight), (9, .occidBlackBishop), (10, .occidBlackRook), (11, .occidBlackQueen),
     (12, .occidBlackKing), (13, .occidReserved13), (14, .occidReserved14), (15, .occidReserved15)] = true := by decide +kernel

/-- 40_piece_code_table.md R112, R115. -/
theorem test_decode_pc4 : allDecode .pc4
    [(0b0000, .pc4Empty), (0b0001, .pc4WhitePawn), (0b0010, .pc4WhiteKnight), (0b0011, .pc4WhiteBishop),
     (0b0100, .pc4WhiteRook), (0b0101, .pc4WhiteQueen), (0b0110, .pc4WhiteKing), (0b1001, .pc4BlackPawn),
     (0b1010, .pc4BlackKnight), (0b1011, .pc4BlackBishop), (0b1100, .pc4BlackRook), (0b1101, .pc4BlackQueen),
     (0b1110, .pc4BlackKing), (0b0111, .pc4Unassigned7), (0b1000, .pc4Unassigned8), (0b1111, .pc4UnassignedF)] = true := by decide +kernel

/-- 40_piece_code_table.md R113, R116. -/
theorem test_decode_pc12 : allDecode .pc12
    [(0b000000000000, .pc12Empty), (0b100000000000, .pc12WhitePawn), (0b010000000000, .pc12WhiteKnight),
     (0b001000000000, .pc12WhiteBishop), (0b000100000000, .pc12WhiteRook), (0b000010000000, .pc12WhiteQueen),
     (0b000001000000, .pc12WhiteKing), (0b000000100000, .pc12BlackPawn), (0b000000010000, .pc12BlackKnight),
     (0b000000001000, .pc12BlackBishop), (0b000000000100, .pc12BlackRook), (0b000000000010, .pc12BlackQueen),
     (0b000000000001, .pc12BlackKing), (0b110000000000, .pc12Unassigned 0xC00#12), (0b100000000001, .pc12Unassigned 0x801#12),
     (0b111111111111, .pc12Unassigned 0xFFF#12)] = true := by decide +kernel

/-- The operand words of the internal functions, each a format of its own. -/
theorem test_decode_codeFor : allDecode (.codeFor .cmc12) [(0b1101, .codeFor .cmc12 13#4)] = true := by decide +kernel
theorem test_decode_occupantForW4 : allDecode .occupantForW4 [(0b1010, .occupantForW4 0xA#4)] = true := by decide +kernel
theorem test_decode_occupantForW12 : allDecode .occupantForW12 [(0b100000000001, .occupantForW12 0x801#12)] = true := by
  decide +kernel
/-- `t abcd s eeeeee`: black, wk and bq, no target, index port 33. -/
theorem test_decode_metaPack : allDecode .metaPack [(0b110010100001, .metaPack 1#1 0b1001#4 0#1 33#6)] = true := by
  decide +kernel
theorem test_decode_metaUnpack : allDecode .metaUnpack [(0b11111010100, .metaUnpack 0b11111010100#11)] = true := by
  decide +kernel
theorem test_decode_metaBlock : allDecode .metaBlock [(0b01010000001, .metaBlock 0b01010000001#11)] = true := by
  decide +kernel
theorem test_decode_bv4 : allDecode .bv4 [(d3Vec, .bv4 (BitVec.ofNat 267 d3Vec))] = true := by decide +kernel
theorem test_decode_bv12 : allDecode .bv12 [(d5Vec, .bv12 (BitVec.ofNat 779 d5Vec))] = true := by decide +kernel
theorem test_decode_err : allDecode .err [(0, .errNone), (1, .errLength)] = true := by decide +kernel

/-- Request words written out port by port (30_encoding.md R71; log 8): E3 and D3 on CMC-4, E3 and D5 on CMC-12. -/
theorem test_decode_encode_request4 : decodesTo (.request .cmc4
    0xa7f51397314eeeeeeee0000000000000000000200000000000022202222846ca648)
    (.encode .cmc4 (encodeOf 4 e3Ports)) = true := by decide +kernel
theorem test_decode_decode_request4 : decodesTo (.request .cmc4
    0x10b78f07f800000000000000000000000000000000000000000000000000000000ea820000000000000000000000000000000000000000000000000000000000000000001)
    (.decode .cmc4 (decodeOf 4 267 d3Vec)) = true := by decide +kernel
theorem test_decode_encode_request12 : decodesTo (.request .cmc12
    0xa7f51397314eeeeeeee0000000000000000000200000000000022202222846ca648)
    (.encode .cmc12 (encodeOf 12 e3Ports)) = true := by decide +kernel
theorem test_decode_decode_request12 : decodesTo (.request .cmc12
    0x30b800801c00000fff0010030400000000000000000000000000000000000000000000000000000000000000000000000000000000000000000000000000000000000000000000000000000000000000000000000000000000000000000000000024400000000000000000000000000000000000000000000000000000000000000000001)
    (.decode .cmc12 (decodeOf 12 779 d5Vec)) = true := by decide +kernel

/-- A 1 beyond the ports is rejected, by name. -/
theorem test_decode_rejects : (decodeWord (.plain .err 2)).toOption = none ∧
    (decodeWord (.plain .pc12 0x1000)).toOption = none ∧
    (decodeWord (.request .cmc4 (2 ^ 546))).toOption = none := by decide +kernel

/-! ## The table's words -/

theorem test_tableWord_decode : decodeTableWord 8 1 = some (.decode .cmc4 (decodeOf 4 0 0)) := by decide +kernel
theorem test_tableWord_pc12 : decodeTableWord 16 0x040 = some .pc12WhiteKing := by decide +kernel

/-- DECODE with every other port 0 is the length error, at once after reset. -/
theorem test_withFetchWord_decode :
    after (step (State.reset.withFetchWord 8 1)) (fun t => t.chip.cmc4.respPorts = some (raiseLengthMismatch 4)) = true := by
  decide +kernel
theorem test_withFetchWord_occid :
    after (step (State.reset.withFetchWord 8 7)) (fun t => t.env.value = .occupant (.piece .pawn .black)) = true := by
  decide +kernel

/-! ## ENCODE (95_test_vectors.md T4) -/

/-- E3; and E9: reserved ids are read as empty, and the index port without a target as zeros. -/
theorem test_encode_cmc4 :
    answer .cmc4 0#1 (encodeOf 4 e3Ports) = some ⟨0#1, 0#1, BitVec.ofNat 267 e3Vec4, zeroPos⟩ ∧
    answer .cmc4 0#1 (encodeOf 4 e9Ports) = some ⟨0#1, 0#1, 0#267, zeroPos⟩ := by decide +kernel
/-- E8. -/
theorem test_encode_cmc12 : answer .cmc12 0#1 (encodeOf 12 e8Ports) =
    some ⟨0#1, 0#1, BitVec.ofNat 779 (0x800400200100080040000000020010008004002001000000000000000000000000000000000000000000000000000000000000000000000000000000000000000000000000000000000000000000000000000000000000000000000000000000 * 2048),
      zeroPos⟩ := by decide +kernel

/-! ## DECODE (95_test_vectors.md T4, T5) -/

/-- E3's vector; D2, 267 ones; D3; and the lengths of D6, D7, D8, D9, D10 and D14. -/
theorem test_decode_cmc4 :
    answer .cmc4 1#1 (decodeOf 4 267 e3Vec4) = some ⟨1#1, 0#1, 0#267, e3Ports⟩ ∧
    answer .cmc4 1#1 (decodeOf 4 267 (2 ^ 267 - 1)) =
      some ⟨1#1, 0#1, 0#267, ports 0 1#1 0b1111#4 1#1 63#6⟩ ∧
    answer .cmc4 1#1 (decodeOf 4 267 d3Vec) = some ⟨1#1, 0#1, 0#267, ports 0xC 1#1 0b0101#4 1#1 1#6⟩ ∧
    ([266, 268, 0, 779, 1023, 256].all fun n =>
      decide (answer .cmc4 1#1 (decodeOf 4 n e3Vec4) = some (raiseLengthMismatch _))) = true := by decide +kernel
/-- D5, and the lengths of D11 and D12. -/
theorem test_decode_cmc12 :
    answer .cmc12 1#1 (decodeOf 12 779 d5Vec) =
      some ⟨1#1, 0#1, 0#779, ports (0x10000C06 * 16 ^ 56 + 0xB) 0#1 0b1000#4 1#1 32#6⟩ ∧
    ([267, 778, 780, 768].all fun n =>
      decide (answer .cmc12 1#1 (decodeOf 12 n d5Vec) = some (raiseLengthMismatch _))) = true := by decide +kernel

/-! ## The internal functions and the formats (95_test_vectors.md T1 to T3) -/

/-- The pieces, in the order of T1, T2 and the ids 1..12. -/
def pieces : List Occupant :=
  [.piece .pawn .white, .piece .knight .white, .piece .bishop .white,
     .piece .rook .white, .piece .queen .white, .piece .king .white,
     .piece .pawn .black, .piece .knight .black, .piece .bishop .black,
     .piece .rook .black, .piece .queen .black, .piece .king .black]

/-- T1: the sixteen 4-bit patterns. -/
def t1 : List (Nat × Occupant) :=
  [0b0001, 0b0010, 0b0011, 0b0100, 0b0101, 0b0110, 0b1001, 0b1010, 0b1011, 0b1100, 0b1101, 0b1110].zip pieces ++
    [0b0000, 0b0111, 0b1000, 0b1111].map fun c => (c, .empty)

/-- T2: the one-bit patterns and some others. -/
def t2 : List (Nat × Occupant) :=
  [0x800, 0x400, 0x200, 0x100, 0x080, 0x040, 0x020, 0x010, 0x008, 0x004, 0x002, 0x001].zip pieces ++
    [0x000, 0xC00, 0x801, 0x003, 0x041, 0x7FF, 0xFFF].map fun c => (c, .empty)

theorem test_occupantForW4 : ∀ p ∈ t1, fnOf (.occupantForW4 (BitVec.ofNat 4 p.1)) = .occupant p.2 := by decide +kernel
theorem test_occupantForW12 : ∀ p ∈ t2, fnOf (.occupantForW12 (BitVec.ofNat 12 p.1)) = .occupant p.2 := by
  decide +kernel
theorem test_pc4_rows : ∀ p ∈ t1, fnOf (decodePc4 (BitVec.ofNat 4 p.1)) = .occupant p.2 := by decide +kernel
theorem test_pc12_rows : ∀ p ∈ t2, fnOf (decodePc12 (BitVec.ofNat 12 p.1)) = .occupant p.2 := by decide +kernel
theorem test_occid_rows : ∀ p ∈ (List.range 13).zip (.empty :: pieces) ++ [(13, .empty), (14, .empty), (15, .empty)],
    fnOf (decodeOccid (BitVec.ofNat 4 p.1)) = .occupant p.2 := by decide +kernel
theorem test_codeFor : fnOf (.codeFor .cmc4 11#4) = .code .cmc4 0b1101#4 ∧
    fnOf (.codeFor .cmc12 11#4) = .code .cmc12 0x002#12 ∧ fnOf (.codeFor .cmc12 14#4) = .code .cmc12 0x000#12 := by
  decide +kernel
/-- The rows of T3 with the target 20, and with no target while the index port carries 63. -/
theorem test_metaPack : fnOf (.metaPack 1#1 0b1111#4 1#1 20#6) = .block 0b11111010100#11 ∧
    fnOf (.metaPack 0#1 0b1000#4 0#1 63#6) = .block 0b01000000000#11 := by decide +kernel
theorem test_metaUnpack : fnOf (.metaUnpack 0b10110000001#11) = .metadata ⟨.black, false, true, true, false, some 1⟩ ∧
    fnOf (.metaUnpack 0#11) = .metadata ⟨.white, false, false, false, false, some 0⟩ := by decide +kernel
theorem test_metaBlock : fnOf (.metaBlock 0b01000100000#11) = .metaFields ⟨0#1, 1#1, 0#1, 0#1, 0#1, 32#6⟩ := by
  decide +kernel
theorem test_bv4 : fnOf (.bv4 (BitVec.ofNat 267 d3Vec)) = .vector .cmc4
    (Vector.ofFn fun i => if i = 0 then 7#4 else if i = 1 then 8#4 else if i = 2 then 15#4 else if i = 4 then 7#4
      else if i = 5 then 15#4 else if i = 6 then 8#4 else if i = 63 then 14#4 else 0#4)
    ⟨1#1, 0#1, 1#1, 0#1, 1#1, 1#6⟩ := by decide +kernel
theorem test_bv12 : fnOf (.bv12 (BitVec.ofNat 779 d5Vec)) = .vector .cmc12
    (Vector.ofFn fun i => if i = 0 then 0x800#12 else if i = 1 then 0x801#12 else if i = 2 then 0xC00#12
      else if i = 4 then 0xFFF#12 else if i = 5 then 1#12 else if i = 6 then 3#12 else if i = 7 then 0x40#12
      else if i = 63 then 2#12 else 0#12)
    ⟨0#1, 1#1, 0#1, 0#1, 0#1, 32#6⟩ := by decide +kernel
theorem test_err : fnOf .errNone = .errCode .none ∧ fnOf .errLength = .errCode .length := by decide +kernel

/-! ## The notation (95_test_vectors.md E3, S7) -/

theorem test_positionText : positionText epText (posOfPorts e3Ports) =
    "rnbqkbnr/pppppppp/8/8/4P3/8/PPPP1PPP/RNBQKBNR b KQkq e3".toList := by decide +kernel
theorem test_vectorText : vectorText (W := 4) (BitVec.ofNat 267 e3Vec4) =
    "42356324 11110111 00000000 00001000 00000000 00000000 99999999 CABDEBAC | 1 1111 010100".toList := by
  decide +kernel
theorem test_responseText : responseText (respondDecode pct12 (decodeOf 12 779 d5Vec)) =
    "OK 7q/8/8/8/8/8/8/P4k1K w K #32".toList := by decide +kernel
theorem test_requestText : requestText 1#1 (decodeOf 4 266 0) = "DECODE len=266 -".toList := by decide +kernel

/-! ## Edges (47_transaction_interface.md R205, 70_reset_and_hazards.md R250; 95_test_vectors.md P5) -/

/-- A response on the ports of the CMC-4 instance. -/
def reply : Resp 4 := respondEncode pct4 (encodeOf 4 e8Ports)

/-- After reset, with `l` to come. -/
def fresh (l : List Input) : State := State.reset.withInputs l

/-- As `fresh`, with `reply` waiting at the CMC-4 instance. -/
def waiting (l : List Input) : State := (fresh l).setCodec .cmc4 ⟨true, reply⟩

/-- A DECODE request word for CMC-4 with length 266, everything else 0. -/
def shortWord : Nat := 266 * 2 ^ 536 + 1

theorem test_edge_accepts : after (step (fresh [.edge .cmc4 false false (.word shortWord)]))
    (fun t => t.chip.cmc4 = ⟨true, raiseLengthMismatch 4⟩ && t.env.taken4 = [] && t.env.inputs = []) = true := by decide +kernel
theorem test_edge_delivers_and_accepts : after (step (waiting [.edge .cmc4 false true (.word shortWord)]))
    (fun t => t.chip.cmc4 = ⟨true, raiseLengthMismatch 4⟩ && t.env.taken4 = [reply]) = true := by decide +kernel
theorem test_edge_waits : after (step (waiting [.edge .cmc4 false false (.word shortWord)]))
    (fun t => t.chip.cmc4 = ⟨true, reply⟩ && t.env.taken4 = []) = true := by decide +kernel
theorem test_edge_delivers : after (step (waiting [.edge .cmc4 false true .none]))
    (fun t => t.chip.cmc4 = ⟨false, reply⟩ && t.env.taken4 = [reply] && t.chip.cmc4.respPorts = none) = true := by decide +kernel
/-- P5: a reset edge loses the waiting response, though `resp_ready` is 1 and a request is presented (R256). -/
theorem test_edge_reset : after (step (waiting [.edge .cmc4 true true (.word shortWord)]))
    (fun t => t.chip.cmc4 = ⟨false, reply⟩ && t.env.taken4 = []) = true := by decide +kernel
/-- P4: an edge of the other instance does not touch this one. -/
theorem test_edge_other_instance : after (step (waiting [.edge .cmc12 false true (.word 0)]))
    (fun t => t.chip.cmc4 = ⟨true, reply⟩ && t.chip.cmc12.respValid) = true := by decide +kernel

/-! ## The hypotheses of the statements can be met -/

/-- EncodeAccepted, on a machine that is delivering. -/
theorem witness_EncodeAccepted : ∃ (r : ReqOperands Variant.cmc4.width) (s : State), r = encodeOf 4 e3Ports ∧
    (s.codec .cmc4).respValid = true ∧ ((s.codec .cmc4).respValid = false ∨ s.env.respReady = true) :=
  ⟨_, (waiting []).withRespReady true, rfl, by decide +kernel, by decide +kernel⟩

/-- DecodeAccepted: the length is L, for both variants. -/
theorem witness_DecodeAccepted : ((fresh []).codec .cmc4).respValid = false ∧
    (decodeOf 4 267 d3Vec).len.toNat = vecLen Variant.cmc4.width ∧
    (decodeOf 12 779 d5Vec).len.toNat = vecLen Variant.cmc12.width := by decide +kernel

/-- WrongLengthAnswered: lengths next to L and at the ends of the range. -/
theorem witness_WrongLengthAnswered : ((fresh []).codec .cmc4).respValid = false ∧
    ∀ n ∈ [0, 266, 268, 1023], (decodeOf 4 n 0).len.toNat ≠ vecLen Variant.cmc4.width := by decide +kernel

theorem witness_BusyRequestWaits : ((waiting []).codec .cmc4).respValid = true ∧ (waiting []).env.respReady = false := by
  decide +kernel

/-- IgnoredPorts: the wrong length of the third clause, the missing target of the fourth. -/
theorem witness_IgnoredPorts : (decodeOf 4 266 1).len.toNat ≠ vecLen Variant.cmc4.width ∧
    (encodeOf 4 e9Ports).pos.epSome = 0#1 := by decide +kernel

/-- FourBitFallback, TwelveBitFallback, TwelveBitTableOneHot, EncodeOfDecode, OccupantForEvaluates: unassigned
patterns, at the ends of their ranges, and assigned ones. -/
theorem witness_unassigned : (∀ o ∈ allOccupants, codeFor pct4 o ≠ 0b0111#4 ∧ codeFor pct4 o ≠ 0b1111#4 ∧
    codeFor pct12 o ≠ 0x003#12 ∧ codeFor pct12 o ≠ 0xFFF#12) ∧ code4 .empty = 0b0000#4 ∧
    code12 (.piece .pawn .white) = 0x800#12 ∧ twoOrMoreBits 0x003#12 = true ∧ twoOrMoreBits 0xFFF#12 = true := by
  decide +kernel
theorem witness_not_assigned : ¬ Assigned pct4 0b0111#4 ∧ Assigned pct4 0b1110#4 ∧ ¬ Assigned pct12 0xC00#12 := by
  refine ⟨fun ⟨o, h⟩ => ?_, ⟨.piece .king .black, rfl⟩, fun ⟨o, h⟩ => ?_⟩ <;>
    (rcases o with _ | ⟨k, c⟩
     · revert h; decide
     · cases k <;> cases c <;> revert h <;> decide)
/-- EncodeOfDecode and ImageOfEncode: a vector with an unassigned slot beside one with none. -/
theorem witness_EncodeOfDecode : slot (W := 4) (BitVec.ofNat 267 d3Vec) 0 = 0b0111#4 ∧
    slot (W := 4) (BitVec.ofNat 267 e3Vec4) 63 = code4 (.piece .rook .black) := by decide +kernel

/-- CodeForEvaluates: the reserved ids. -/
theorem witness_CodeForEvaluates : 13 ≤ (13#4).toNat ∧ 13 ≤ (15#4).toNat := by decide
theorem witness_TwelveBitRowsEvaluate : twoOrMoreBits 0xC00#12 = true ∧ twoOrMoreBits 0xFFF#12 = true := by decide

/-- A Position with the target `e`. -/
def withTarget (e : Option Square) : Position := { posOfPorts e3Ports with ep := e }

/-- PackOfUnpack, RoundTripEnPassant, RoundTripIsNorm, EncodeInjectiveUpToDefect, DecodedTargets: Positions with
the target 0, with another, and with none. -/
theorem witness_targets : (withTarget none).ep = none ∧ (withTarget (some 0)).ep = some 0 ∧
    (withTarget (some 63)).ep = some 63 ∧ withTarget none ≠ withTarget (some 0) ∧
    { withTarget none with ep := none } = { withTarget (some 0) with ep := none } ∧
    normPosition (withTarget none) = normPosition (withTarget (some 0)) := by decide +kernel

/-- FieldIsolation: two vectors that agree on the placement and differ in every metadata field, and two that agree
on the metadata and differ in one square (95_test_vectors.md P3). -/
theorem witness_FieldIsolation :
    let v : BitVec (vecLen 4) := BitVec.ofNat 267 e3Vec4
    let w : BitVec (vecLen 4) := v ^^^ BitVec.ofNat 267 0b11111111111
    let x : BitVec (vecLen 4) := v ^^^ BitVec.ofNat 267 (2 ^ 266)
    (∀ k < 256, seqBit v k = seqBit w k) ∧ (∀ k < 11, seqBit v (256 + k) ≠ seqBit w (256 + k)) ∧
    (∀ k < 11, seqBit v (256 + k) = seqBit x (256 + k)) ∧ (∀ i : Square, slot v i = slot x i ↔ i ≠ 0) := by
  decide +kernel
/-- ... and two Positions that differ only in a square, and two only in the target. -/
theorem witness_FieldIsolation_encode :
    let P := withTarget (some 1)
    let Q := writeSquare P 0 .empty
    P.turn = Q.turn ∧ P.wk = Q.wk ∧ P.wq = Q.wq ∧ P.bk = Q.bk ∧ P.bq = Q.bq ∧ P.ep = Q.ep ∧
    readSquare P 0 ≠ readSquare Q 0 ∧ readSquare P 1 = readSquare Q 1 ∧
    readSquare P 0 = readSquare (withTarget (some 2)) 0 := by decide +kernel

/-- LengthDecides and AcrossVariants: both sides of the length test. -/
theorem witness_LengthDecides : 266 ≠ vecLen 4 ∧ 267 = vecLen 4 ∧ 267 ≠ vecLen 12 ∧ 779 = vecLen 12 := by decide

/-- StepRunsDecoded: a request edge and an evaluation whose words decode. -/
theorem witness_StepRunsDecoded :
    (fresh [.edge .cmc4 false true (.word 1)]).env.inputs = [.edge .cmc4 false true (.word 1)] ∧
    decodeTableWord 8 1 = some (.decode .cmc4 (decodeOf 4 0 0)) ∧
    decodesTo (.request .cmc4 1) (.decode .cmc4 (decodeOf 4 0 0)) = true ∧
    (fresh [.eval .occid 7]).env.inputs = [.eval .occid 7] ∧ decodesTo (.plain .occid 7) .occidBlackPawn = true := by
  decide +kernel

/-- The word of a request. -/
def wordOf {v : Variant} (q : Request v.width) : Nat := (reqWord q.op q.operands).toNat
/-- An ENCODE request of E3, and a DECODE of a wrong length. -/
def request1 : Request Variant.cmc4.width := ⟨0#1, encodeOf 4 e3Ports⟩
def request2 : Request Variant.cmc4.width := ⟨1#1, decodeOf 4 266 0⟩

/-- Another pair of tables that meets 40_piece_code_table.md R111: every bit of `PCT4` inverted; in 12 bits the pieces'
bits one place on, and all ones for `empty`. -/
def otherTables : Tables where
  cmc4 := { codeFor := fun o => ~~~ code4 o, injective := injective_of_pairwise _ (by decide) }
  cmc12 :=
    { codeFor := fun o => if o = .empty then 0xFFF#12 else (code12 o).rotateLeft 1
      injective := injective_of_pairwise _ (by decide) }
  oneHot := by intro k c; cases k <;> cases c <;> decide

/-- With those tables the placement of a CMC-4 response is inverted, and its metadata is not. -/
theorem test_otherTables_answer :
    after (stepWith otherTables (fresh [.edge .cmc4 false false (.word (wordOf request1))]))
      (fun t => t.chip.cmc4.resp.vec = BitVec.ofNat 267 (e3Vec4 ^^^ ((2 ^ 256 - 1) * 2048))) = true := by
  decide +kernel

/-- EdgeAcceptsRequest, SameRequestSameResponse: the same request to an idle instance and to one that delivers. -/
theorem witness_EdgeAcceptsRequest :
    ∃ s s' : State, s.env.inputs = .edge .cmc4 false false (.word (reqWord request1.op request1.operands).toNat) :: [] ∧
      (s.codec .cmc4).respValid = false ∧
      s'.env.inputs = .edge .cmc4 false true (.word (reqWord request1.op request1.operands).toNat) :: [] ∧
      (s'.codec .cmc4).respValid = true ∧
      after (step s) (fun t => t.chip.cmc4.respValid) = true ∧ after (step s') (fun t => t.chip.cmc4.respValid) = true :=
  ⟨fresh [.edge .cmc4 false false (.word (wordOf request1))], waiting [.edge .cmc4 false true (.word (wordOf request1))],
    rfl, rfl, rfl, rfl, by decide +kernel, by decide +kernel⟩

/-- ResetEdgeClears, DeliverEdge, WaitingResponseHeld, InstancesIndependent: an edge of each kind, on a waiting
instance, and the step that follows it. -/
theorem witness_edges :
    (∀ x ∈ [Input.edge .cmc4 true true (.word 0), .edge .cmc4 false true .none, .edge .cmc4 false false .none,
        .edge .cmc4 false false (.word 0), .edge .cmc4 false false .indefinite, .eval .occid 7],
      (waiting [x]).env.inputs = [x] ∧ ((waiting [x]).codec .cmc4).respValid = true ∧
        after (step (waiting [x])) (fun t => t.env.inputs = []) = true) ∧
    ((fresh [.edge .cmc4 false true .none]).codec .cmc4).respValid = false := by decide +kernel

/-- RefusedInputs: an indefinite port at a ready and at a busy instance, and the smallest words with no port. -/
theorem witness_RefusedInputs :
    ((fresh [.edge .cmc4 false false .indefinite]).codec .cmc4).respValid = false ∧
    ((waiting [.edge .cmc4 false false .indefinite]).codec .cmc4).respValid = true ∧
    2 ^ reqLen Variant.cmc4.width ≤ 2 ^ 546 ∧ 2 ^ Format.err.width ≤ 2 := by decide +kernel

/-- DefiniteInputsNeverStop: the widest words. -/
theorem witness_DefiniteInputsNeverStop :
    HostOk (fresh [.edge .cmc4 false true (.word (2 ^ 546 - 1)), .edge .cmc12 true false .none, .eval .pc12 4095]) := by
  intro x hx
  simp only [fresh, State.withInputs, List.mem_cons, List.not_mem_nil, or_false] at hx
  rcases hx with rfl | rfl | rfl
  · show 2 ^ 546 - 1 < 2 ^ reqLen Variant.cmc4.width
    decide +kernel
  · trivial
  · show 4095 < 2 ^ Format.pc12.width
    decide

/-- EnvironmentNotRead: two environments that differ in all else, and a step with a next state. -/
theorem witness_EnvironmentNotRead : ∃ s s' t : State, s'.chip = s.chip ∧
    s'.env.inputs.head? = s.env.inputs.head? ∧ s'.env ≠ s.env ∧ step s = .next t :=
  ⟨waiting [.eval .err 1], ((waiting [.eval .err 1, .eval .err 0]).setTaken .cmc4 [reply]).withValue (.errCode .none),
    _, rfl, rfl, by decide +kernel, rfl⟩

/-- ProgramAnsweredInOrder: a program of two requests. -/
theorem witness_ProgramAnsweredInOrder : ∃ s : State, (s.codec .cmc4).respValid = false ∧
    s.env.inputs = programInputs .cmc4 [request1, request2] := ⟨fresh (programInputs .cmc4 [request1, request2]), rfl, rfl⟩

/-- HeldRequestAccepted: held through two edges. -/
theorem witness_HeldRequestAccepted : ∃ s : State, (s.codec .cmc4).respValid = true ∧
    s.env.inputs = List.replicate 2 (.edge .cmc4 false false (.word (reqWord request2.op request2.operands).toNat)) ++
      [.edge .cmc4 false true (.word (reqWord request2.op request2.operands).toNat)] :=
  ⟨waiting (List.replicate 2 (.edge .cmc4 false false (.word (wordOf request2))) ++
    [.edge .cmc4 false true (.word (wordOf request2))]), rfl, rfl⟩

/-- StepKeepsResponseShapes: a state with the invariant, a response waiting and one taken, and its next state. -/
theorem witness_StepKeepsResponseShapes : ∃ s t : State, Inv s ∧ (s.codec .cmc4).respValid = true ∧
    s.taken .cmc4 ≠ [] ∧ step s = .next t := by
  refine ⟨((fresh [.edge .cmc4 false true .none]).setCodec .cmc4 ⟨true, raiseLengthMismatch 4⟩).setTaken .cmc4
    [raiseLengthMismatch 4], _, ?_, rfl, by decide, rfl⟩
  have shape : RespShape pct4 (raiseLengthMismatch 4) := .lengthError rfl rfl rfl rfl
  intro v
  cases v
  · refine ⟨fun _ => shape, fun a ha => ?_⟩
    rw [List.mem_singleton.1 ha]
    exact shape
  · exact ⟨fun h => Bool.noConfusion h, fun a ha => nomatch ha⟩

/-- EveryTableAnswered: with tables that are not the default ones, a request to an idle instance, and a state with the
invariant whose step has a next state. -/
theorem witness_EveryTableAnswered : ∃ s t : State,
    s.env.inputs = .edge .cmc4 false false (.word (reqWord request1.op request1.operands).toNat) :: [] ∧
      (s.codec .cmc4).respValid = false ∧ Inv s otherTables ∧ stepWith otherTables s = .next t ∧
      otherTables.cmc4.codeFor .empty ≠ pct.cmc4.codeFor .empty := by
  obtain ⟨t, ht⟩ := next_of_after test_otherTables_answer
  refine ⟨_, t, rfl, rfl, fun v => ?_, ht, by decide⟩
  cases v <;> exact ⟨fun h => Bool.noConfusion h, fun a ha => nomatch ha⟩

theorem witness_IdleStepChangesNothing : (waiting []).env.inputs = [] := rfl

/-- EncodedDecodesBack and DecodedEncodesBack, EveryWordDecodes: a well-formed instruction, a word that decodes, and
one that fits. -/
theorem witness_EncodedDecodesBack : (Instr.pc12Unassigned 0xC00#12).WellFormed = true ∧
    decodesTo (.plain .pc12 0xC00) (.pc12Unassigned 0xC00#12) = true := by decide +kernel

end Sys2Proof.Machine.Tests
end

/-!
SUPPORT. Requests and lookups for any tables: what an edge that presents a request does at a ready codec, and that
the lookups of the Piece Code Table and of the occupant ids undo each other.
-/

namespace Sys2Proof.Machine

section Lookups

/-- 40_piece_code_table.md R114: no other occupant has the code, so OCCUPANT_FOR finds this one. -/
@[simp] theorem occupantFor_codeFor {W : Nat} (T : PieceCodeTable W) (o : Occupant) :
    occupantFor T (codeFor T o) = o := by
  rcases occupantFor_cases T (codeFor T o) with h | ⟨hnone, -⟩
  · exact T.injective _ _ h
  · exact absurd rfl (hnone o)

/-- 30_encoding.md R74: the id of an occupant is read back as that occupant. -/
@[simp] theorem occOfId_idOfOcc (o : Occupant) : occOfId (idOfOcc o) = o := by
  rcases o with _ | ⟨k, c⟩
  · rfl
  · cases k <;> cases c <;> rfl

/-- 30_encoding.md R75: no occupant has one of the ids 13 to 15. -/
theorem idOfOcc_le (o : Occupant) : (idOfOcc o).toNat ≤ 12 := by
  rcases o with _ | ⟨k, c⟩
  · decide
  · cases k <;> cases c <;> decide

end Lookups

section Requests

/-- The operation field of a request word is the operation it was made with. -/
theorem ofNat_one_reqWord {W : Nat} (op : BitVec 1) (r : ReqOperands W) :
    BitVec.ofNat 1 (reqWord op r).toNat = op := by
  apply BitVec.eq_of_toNat_eq
  rw [BitVec.toNat_ofNat, pow_one, reqWord_mod_two]

/-- At an edge without reset that presents a request, a step is ACCEPT with `F` of the request
(47_transaction_interface.md R203, R205); where the codec is busy `State.accept` changes nothing. -/
theorem Runs.takeNext_request {T : Tables} {run : Instr → State → Host.Outcome State Fault Refusal}
    (hr : Runs T run) {s : State} {v : Variant} {ready : Bool} {q : Request v.width} {rest : List Input}
    (hin : s.env.inputs = .edge v false ready (.word (reqWord q.op q.operands).toNat) :: rest) :
    takeNext run s = .next
      (((s.withInputs rest).withRespReady ready).accept v (respond (T.of v) q.op q.operands)) := by
  have hfits : fitsIn (reqLen v.width) (reqWord q.op q.operands).toNat = true := fitsIn_iff.2 (BitVec.isLt _)
  have hrun := hr.request v (reqWord q.op q.operands).toNat ((s.withInputs rest).withRespReady ready)
  rw [ofNat_one_reqWord, BitVec.ofNat_toNat, BitVec.setWidth_eq, reqOperands_reqWord] at hrun
  simp only [takeNext, hin, takeInput, clockEdge, runWord, decodeWord, hfits, if_true, Bool.false_eq_true,
    if_false, hrun]

/-- A request presented to a ready codec: the next state, field by field. -/
theorem Runs.takeNext_request_of_ready {T : Tables} {run : Instr → State → Host.Outcome State Fault Refusal}
    (hr : Runs T run) {s : State} {v : Variant} {ready : Bool} {q : Request v.width} {rest : List Input}
    (hin : s.env.inputs = .edge v false ready (.word (reqWord q.op q.operands).toNat) :: rest)
    (hready : (s.codec v).respValid = false ∨ ready = true) :
    ∃ t, takeNext run s = .next t ∧ t.codec v = { respValid := true, resp := respond (T.of v) q.op q.operands } ∧
      t.taken v = (if (s.codec v).respValid = true then s.taken v ++ [(s.codec v).resp] else s.taken v) ∧
      (∀ w, w ≠ v → t.codec w = s.codec w ∧ t.taken w = s.taken w) ∧ t.env.inputs = rest ∧
      t.env.value = s.env.value := by
  refine ⟨_, hr.takeNext_request hin, ?_, ?_, fun w hw => ?_, ?_, ?_⟩
  · simp [accept_of_ready _ _ hready]
  · rw [stateAccept_taken, observe_taken_of_ready _ _ (by simpa using hready)]
    simp
  · simp [hw]
  · simp
  · simp

end Requests

end Sys2Proof.Machine

/-!
SUPPORT. The invariant of response shapes, for any tables: `F` answers with one of the three shapes, and ACCEPT,
DELIVER and reset keep a codec's invariant.
-/

namespace Sys2Proof.Machine

section Shapes
variable {W : Nat} (T : PieceCodeTable W)

/-- An ENCODE response holds the codes of the Position's occupants. -/
theorem respondEncode_shape (r : ReqOperands W) : RespShape T (respondEncode T r) :=
  .encoded rfl rfl rfl fun i => ⟨_, (slot_encodePosition T (posOfPorts r.pos) i).symm⟩

/-- A Position on the response ports carries ids of occupants only. -/
theorem portsOfPos_sq_le (P : Position) (i : Square) : (portsOfPos P).sq[i].toNat ≤ 12 := by
  simp only [portsOfPos, Fin.getElem_fin, Vector.getElem_ofFn]
  exact idOfOcc_le _

/-- 41_metadata_block.md R137: a decoded Position has a target. -/
theorem portsOfPos_decodeVector_epSome (v : BitVec (vecLen W)) :
    (portsOfPos (decodeVector T v)).epSome = 1#1 := by
  simp [portsOfPos, decodeVector, metaUnpack, metaUnpackInto_eq, b2bit]

/-- 43_decode.md R161: a DECODE response is a Position or the error. -/
theorem respondDecode_shape (r : ReqOperands W) : RespShape T (respondDecode T r) := by
  unfold respondDecode
  split
  · exact .decoded rfl rfl rfl (portsOfPos_sq_le _) (portsOfPos_decodeVector_epSome T r.vec)
  · exact .lengthError rfl rfl rfl rfl

/-- 30_encoding.md R77: `F` answers every request with one of the three shapes. -/
theorem respond_shape (op : BitVec 1) (r : ReqOperands W) : RespShape T (respond T op r) := by
  unfold respond
  split
  · exact respondEncode_shape T r
  · exact respondDecode_shape T r

end Shapes

section Instances
variable {W : Nat} {T : PieceCodeTable W} {c : Codec W} {l : List (Resp W)}

theorem CodecInv.accept (h : CodecInv T c l) (ready : Bool) {a : Resp W} (ha : RespShape T a) :
    CodecInv T (c.accept ready a) l := by
  rcases accept_cases c a ready with ⟨-, heq⟩ | ⟨-, -, heq⟩ <;> rw [heq]
  · exact ⟨fun _ => ha, h.taken⟩
  · exact h

/-- A codec with nothing waiting has the invariant whatever its register holds. -/
theorem CodecInv.clearValid (h : CodecInv T c l) : CodecInv T { c with respValid := false } l :=
  ⟨nofun, h.taken⟩

theorem CodecInv.deliver (h : CodecInv T c l) (ready : Bool) : CodecInv T (c.deliver ready) l := by
  rcases deliver_cases c ready with ⟨-, -, heq⟩ | ⟨-, heq⟩ <;> rw [heq]
  · exact h.clearValid
  · exact h

/-- A waiting response has a shape already when the host takes it. -/
theorem CodecInv.append_waiting (h : CodecInv T c l) (hv : c.respValid = true) : CodecInv T c (l ++ [c.resp]) := by
  refine ⟨h.waiting, fun a ha => ?_⟩
  rcases List.mem_append.1 ha with hl | hc
  · exact h.taken a hl
  · rw [List.mem_singleton.1 hc]
    exact h.waiting hv

end Instances

section Machines
variable {T : Tables} {s t : State} {v : Variant}

/-- The invariant reads nothing but the two codecs and the responses taken from them. -/
theorem Inv.congr (h : Inv s T) (heq : ∀ w, t.codec w = s.codec w ∧ t.taken w = s.taken w) : Inv t T := by
  intro w
  obtain ⟨hc, ht⟩ := heq w
  rw [hc, ht]
  exact h w

/-- A change at codec `v` needs an argument for that codec only. -/
theorem Inv.of_unchanged_elsewhere (h : Inv s T) (hv : CodecInv (T.of v) (t.codec v) (t.taken v))
    (heq : ∀ w, w ≠ v → t.codec w = s.codec w ∧ t.taken w = s.taken w) : Inv t T := by
  intro w
  by_cases hw : w = v
  · subst hw
    exact hv
  · obtain ⟨hc, ht⟩ := heq w hw
    rw [hc, ht]
    exact h w

theorem Inv.withInputs (h : Inv s T) (l : List Input) : Inv (s.withInputs l) T := h.congr (by simp)
theorem Inv.withRespReady (h : Inv s T) (b : Bool) : Inv (s.withRespReady b) T := h.congr (by simp)
theorem Inv.withValue (h : Inv s T) (x : FnValue) : Inv (s.withValue x) T := h.congr (by simp)

/-- What the host has observed after an edge keeps the invariant of the codec it observed. -/
theorem Inv.observe_codecInv (h : Inv s T) : CodecInv (T.of v) (s.codec v) ((s.observe v).taken v) := by
  rw [observe_taken_self]
  split
  case isTrue hd => exact (h v).append_waiting hd.1
  case isFalse => exact h v

theorem Inv.accept (h : Inv s T) {a : Resp v.width} (ha : RespShape (T.of v) a) : Inv (s.accept v a) T := by
  refine h.of_unchanged_elsewhere (v := v) ?_ fun w hw => by simp [hw]
  rw [stateAccept_codec_self, stateAccept_taken]
  exact h.observe_codecInv.accept _ ha

theorem Inv.deliver (h : Inv s T) : Inv (s.deliver v) T := by
  refine h.of_unchanged_elsewhere (v := v) ?_ fun w hw => by simp [hw]
  rw [stateDeliver_codec_self, stateDeliver_taken]
  exact h.observe_codecInv.deliver _

theorem Inv.resetEdge (h : Inv s T) : Inv (s.resetEdge v) T := by
  refine h.of_unchanged_elsewhere (v := v) ?_ fun w hw => by simp [hw]
  rw [stateReset_codec_self, stateReset_taken]
  exact (h v).clearValid

/-- Whatever a step did, it kept the invariant. -/
theorem Stepped.inv (hst : Stepped T s t) (h : Inv s T) : Inv t T := by
  cases hst with
  | idle _ heq => exact heq ▸ h
  | reset v ready req rest _ heq => exact heq ▸ ((h.withInputs rest).withRespReady ready).resetEdge
  | deliver v ready rest _ heq => exact heq ▸ ((h.withInputs rest).withRespReady ready).deliver
  | request v ready bits rest _ _ heq =>
    exact heq ▸ ((h.withInputs rest).withRespReady ready).accept (respond_shape (T.of v) _ _)
  | busy v rest _ _ heq => exact heq ▸ (h.withInputs rest).withRespReady false
  | evaluated f bits rest x _ _ heq => exact heq ▸ (h.withInputs rest).withValue x

end Machines

end Sys2Proof.Machine

/-!
PROOFS. The statements about the tables as an argument (00_scope.md R8).
-/

namespace Sys2Proof.Machine

/-- `step` is the step of the machine that takes the tables as an argument, at the default tables. -/
theorem step_eq_stepWith : step = stepWith pct := by
  funext s
  rw [step, stepWith, exec_eq_execWith]

/-- A run ends at a refused step. -/
theorem run_succ_of_refused (M : Host.Core) (k : Nat) (s : M.State) (r : M.Refusal) (h : M.step s = .refused r) :
    M.run (k + 1) s = .refused r := by simp only [Host.Core.run, h]

/-- Settles O54, by induction on the number of steps: the two machines take the same step from every state. -/
theorem runsAreOfDefaultTables : Obligations.RunsAreOfDefaultTables := by
  intro k
  induction k with
  | zero => intro s; rfl
  | succ k ih =>
    intro s
    have hstep : Sys2Proof.core.step s = stepWith pct s := congrFun step_eq_stepWith s
    cases h : stepWith pct s with
    | next t =>
      rw [run_succ_of_next Sys2Proof.core k s t (hstep.trans h), run_succ_of_next (coreWith pct) k s t h]
      exact ih t
    | fault r => exact nomatch r
    | refused r =>
      exact (run_succ_of_refused Sys2Proof.core k s r (hstep.trans h)).trans
        (run_succ_of_refused (coreWith pct) k s r h).symm

/-- CODE_FOR of an occupant's id gives the occupant's code in the tables of the machine. -/
theorem execWith_codeFor_idOfOcc (T : Tables) (s : State) (v : Variant) (o : Occupant) :
    execWith T (.codeFor v (idOfOcc o)) s = .next (s.withValue (.code v ((T.of v).codeFor o))) := by
  simp only [execWith, execCodeFor, occOfId_idOfOcc, codeFor]

/-- OCCUPANT_FOR.W4 of an occupant's code gives the occupant. -/
theorem execWith_occupantForW4_codeFor (T : Tables) (s : State) (o : Occupant) :
    execWith T (.occupantForW4 (codeFor T.cmc4 o)) s = .next (s.withValue (.occupant o)) := by
  simp only [execWith, execOccupantForW4, occupantFor_codeFor]

/-- OCCUPANT_FOR.W12 of an occupant's code gives the occupant. -/
theorem execWith_occupantForW12_codeFor (T : Tables) (s : State) (o : Occupant) :
    execWith T (.occupantForW12 (codeFor T.cmc12 o)) s = .next (s.withValue (.occupant o)) := by
  simp only [execWith, execOccupantForW12, occupantFor_codeFor]

/-- Settles O55: F by the request rule, the lookups because they undo each other, the invariant by the cases of a
step. -/
theorem everyTableAnswered : Obligations.EveryTableAnswered := by
  intro T
  refine ⟨fun s v ready q rest hin hready => ?_, fun s v o => ?_, fun s o => ⟨?_, ?_⟩, fun s t hinv hst => ?_⟩
  · exact (execWith_runs T).takeNext_request_of_ready hin hready
  · exact execWith_codeFor_idOfOcc T s v o
  · exact execWith_occupantForW4_codeFor T s o
  · exact execWith_occupantForW12_codeFor T s o
  · exact (stepWith_cases hst).inv hinv

end Sys2Proof.Machine

/-!
SUPPORT. The state after reset (10_state.md R36), field by field, and that a codec with nothing waiting is ready and
gives nothing on its response ports.
-/

namespace Sys2Proof.Machine

section AfterReset
variable (v : Variant)

@[simp] theorem Codec.reset_respValid (W : Nat) : (Codec.reset W).respValid = false := rfl
@[simp] theorem State.reset_codec : State.reset.codec v = Codec.reset v.width := by cases v <;> rfl
@[simp] theorem State.reset_taken : State.reset.taken v = [] := by cases v <;> rfl

end AfterReset

section NothingWaiting
variable {W : Nat} {T : PieceCodeTable W} {c : Codec W}

/-- 47_transaction_interface.md R206 (log 13). -/
theorem respPorts_of_not_valid (h : c.respValid = false) : c.respPorts = none := by simp [Codec.respPorts, h]

/-- 47_transaction_interface.md R205: without a response and without reset `resp_ready` does not matter. -/
theorem reqReady_of_not_valid {valid : Bool} (h : valid = false) (ready : Bool) :
    reqReady false valid ready = true := by simp [reqReady, h]

/-- A codec with nothing waiting, from which nothing was taken, has the invariant whatever its register holds. -/
theorem CodecInv.of_not_valid (h : c.respValid = false) : CodecInv T c [] where
  waiting hv := by rw [h] at hv; cases hv
  taken := nofun

end NothingWaiting

/-- The invariant holds after reset, whatever tables the machine is built with. -/
theorem reset_inv (T : Tables) : Inv State.reset T := by
  intro v
  rw [State.reset_codec, State.reset_taken]
  exact CodecInv.of_not_valid (Codec.reset_respValid v.width)

end Sys2Proof.Machine

/-!
SUPPORT. What a step reads: the machine part of the next state is a function of the machine part of this one and of
the input taken.
-/

namespace Sys2Proof.Machine

section ChipOnly
variable {s s' t t' : State} {v : Variant}

/-- Two states with the same machine part, changed at codec `v` only and alike there, still have the same one. -/
theorem chip_eq_of_codec_eq (hchip : s'.chip = s.chip) (hv : t'.codec v = t.codec v)
    (ht' : ∀ w, w ≠ v → t'.codec w = s'.codec w) (ht : ∀ w, w ≠ v → t.codec w = s.codec w) : t'.chip = t.chip := by
  refine chip_ext fun w => ?_
  by_cases hw : w = v
  · subst hw
    exact hv
  · rw [ht' w hw, ht w hw, codec_of_chip hchip]

theorem accept_chip_congr (hchip : s'.chip = s.chip) (hready : s'.env.respReady = s.env.respReady)
    (a : Resp v.width) : (s'.accept v a).chip = (s.accept v a).chip := by
  refine chip_eq_of_codec_eq hchip (v := v) ?_ (fun w hw => by simp [hw]) (fun w hw => by simp [hw])
  rw [stateAccept_codec_self, stateAccept_codec_self, codec_of_chip hchip, hready]

theorem deliver_chip_congr (hchip : s'.chip = s.chip) (hready : s'.env.respReady = s.env.respReady) :
    (s'.deliver v).chip = (s.deliver v).chip := by
  refine chip_eq_of_codec_eq hchip (v := v) ?_ (fun w hw => by simp [hw]) (fun w hw => by simp [hw])
  rw [stateDeliver_codec_self, stateDeliver_codec_self, codec_of_chip hchip, hready]

theorem resetEdge_chip_congr (hchip : s'.chip = s.chip) : (s'.resetEdge v).chip = (s.resetEdge v).chip := by
  refine chip_eq_of_codec_eq hchip (v := v) ?_ (fun w hw => by simp [hw]) (fun w hw => by simp [hw])
  rw [stateReset_codec_self, stateReset_codec_self, codec_of_chip hchip]

end ChipOnly

section StepEquations
variable {run : Instr → State → Host.Outcome State Fault Refusal} {s : State} {v : Variant} {ready : Bool}
  {rest : List Input}

theorem takeNext_of_idle (hin : s.env.inputs = []) : takeNext run s = .next s := by
  simp only [takeNext, hin]

theorem takeNext_of_reset {req : Presented} (hin : s.env.inputs = .edge v true ready req :: rest) :
    takeNext run s = .next (((s.withInputs rest).withRespReady ready).resetEdge v) := by
  simp only [takeNext, hin, takeInput, clockEdge, if_true]

theorem takeNext_of_deliver (hin : s.env.inputs = .edge v false ready .none :: rest) :
    takeNext run s = .next (((s.withInputs rest).withRespReady ready).deliver v) := by
  simp only [takeNext, hin, takeInput, clockEdge, Bool.false_eq_true, if_false]

/-- 93_implementation_defined.md I13: ports that are not read may carry anything. -/
theorem takeNext_of_busy (hin : s.env.inputs = .edge v false false .indefinite :: rest)
    (hv : (s.codec v).respValid = true) : takeNext run s = .next ((s.withInputs rest).withRespReady false) := by
  simp [takeNext, hin, takeInput, clockEdge, reqReady, hv]

variable {T : Tables}

/-- A request word that fits the ports is ACCEPT with `F` of what the ports carry. -/
theorem Runs.takeNext_of_word (hr : Runs T run) {bits : Nat}
    (hin : s.env.inputs = .edge v false ready (.word bits) :: rest) (hfits : bits < 2 ^ reqLen v.width) :
    takeNext run s = .next (((s.withInputs rest).withRespReady ready).accept v
      (respond (T.of v) (BitVec.ofNat 1 bits) (reqOperands (BitVec.ofNat (reqLen v.width) bits)))) := by
  simp only [takeNext, hin, takeInput, clockEdge, runWord, decodeWord, fitsIn_iff.2 hfits, if_true,
    Bool.false_eq_true, if_false, hr.request]

/-- The evaluation of a word that fits its format gives some value to the caller. -/
theorem Runs.takeNext_of_eval (hr : Runs T run) {f : Format} {bits : Nat}
    (hin : s.env.inputs = .eval f bits :: rest) (hfits : bits < 2 ^ f.width) :
    ∃ x, takeNext run s = .next ((s.withInputs rest).withValue x) := by
  obtain ⟨x, hx⟩ := hr.plain f bits
  refine ⟨x, ?_⟩
  simp only [takeNext, hin, takeInput, runWord, decodeWord, fitsIn_iff.2 hfits, if_true, hx]

/-- 10_state.md R28, R35: a step reads the machine part and the input it takes, and nothing else of the environment. -/
theorem Runs.takeNext_congr_chip (hr : Runs T run) {s' t : State} (hchip : s'.chip = s.chip)
    (hhead : s'.env.inputs.head? = s.env.inputs.head?) (h : takeNext run s = .next t) :
    ∃ t', takeNext run s' = .next t' ∧ t'.chip = t.chip ∧ t'.env.inputs = s'.env.inputs.tail := by
  have same {x : Input} {l : List Input} (hin : s.env.inputs = x :: l) :
      s'.env.inputs = x :: s'.env.inputs.tail := by
    refine (List.cons_head?_tail ?_).symm
    rw [hhead, hin]
    rfl
  cases hr.takeNext_cases h with
  | idle hin heq =>
    have hin' : s'.env.inputs = [] := by rwa [hin, List.head?_nil, List.head?_eq_none_iff] at hhead
    exact ⟨s', takeNext_of_idle hin', by rw [heq, hchip], by rw [hin', List.tail_nil]⟩
  | reset v ready req l hin heq =>
    exact ⟨_, takeNext_of_reset (same hin), heq ▸ resetEdge_chip_congr hchip, by simp⟩
  | deliver v ready l hin heq =>
    exact ⟨_, takeNext_of_deliver (same hin), heq ▸ deliver_chip_congr hchip rfl, by simp⟩
  | request v ready bits l hin hfits heq =>
    refine ⟨_, hr.takeNext_of_word (same hin) hfits, ?_, by simp⟩
    rw [heq]
    exact accept_chip_congr (by simp [hchip]) (by simp) _
  | busy v l hin hv heq =>
    have hv' : (s'.codec v).respValid = true := by rwa [codec_of_chip hchip]
    exact ⟨_, takeNext_of_busy (same hin) hv', heq ▸ hchip, by simp⟩
  | evaluated f bits l x hin hfits heq =>
    obtain ⟨y, hy⟩ := hr.takeNext_of_eval (same hin) hfits
    exact ⟨_, hy, heq ▸ hchip, by simp⟩

end StepEquations

section RequestWord
variable {T : Tables} {s t : State} {v : Variant} {ready : Bool} {bits : Nat} {rest : List Input}

/-- What a step that presents a request word has done: the word fitted the ports, and it was ACCEPT. -/
theorem Stepped.of_word (hst : Stepped T s t) (hin : s.env.inputs = .edge v false ready (.word bits) :: rest) :
    bits < 2 ^ reqLen v.width ∧ t = ((s.withInputs rest).withRespReady ready).accept v
      (respond (T.of v) (BitVec.ofNat 1 bits) (reqOperands (BitVec.ofNat (reqLen v.width) bits))) := by
  cases hst with
  | request v' ready' bits' rest' hin' hfits heq =>
    cases hin.symm.trans hin'
    exact ⟨hfits, heq⟩
  | idle hin' _ => cases hin.symm.trans hin'
  | reset _ _ _ _ hin' _ => cases hin.symm.trans hin'
  | deliver _ _ _ hin' _ => cases hin.symm.trans hin'
  | busy _ _ hin' _ _ => cases hin.symm.trans hin'
  | evaluated _ _ _ _ hin' _ _ => cases hin.symm.trans hin'

/-- A request word presented to a ready codec leaves `F` of what the ports carry in it, whatever it held. -/
theorem Stepped.codec_of_word (hst : Stepped T s t)
    (hin : s.env.inputs = .edge v false ready (.word bits) :: rest)
    (hready : (s.codec v).respValid = false ∨ ready = true) :
    t.codec v =
      ⟨true, respond (T.of v) (BitVec.ofNat 1 bits) (reqOperands (BitVec.ofNat (reqLen v.width) bits))⟩ := by
  obtain ⟨-, rfl⟩ := hst.of_word hin
  rw [stateAccept_codec_self]
  exact accept_of_ready _ _ (by simpa using hready)

end RequestWord

end Sys2Proof.Machine

/-!
PROOFS. The statements about the state (10_state.md): what a response depends on, and the state after reset.
-/

namespace Sys2Proof.Machine

/-- Settles O46: both codecs then hold `F` of the word, in which neither state occurs. -/
theorem sameRequestSameResponse : Obligations.SameRequestSameResponse := by
  intro s s' t t' v ready ready' bits rest rest' hin hin' hready hready' h h'
  have hcodec := (step_cases h).codec_of_word hin hready
  have hcodec' := (step_cases h').codec_of_word hin' hready'
  exact ⟨by rw [hcodec], by rw [hcodec'], by rw [hcodec, hcodec']⟩

/-- Settles O48, by the cases of a step. -/
theorem environmentNotRead : Obligations.EnvironmentNotRead :=
  fun _ _ _ hchip hhead h => exec_runs.takeNext_congr_chip hchip hhead h

/-- Settles O52: after reset nothing waits and nothing was taken. -/
theorem resetHasResponseShapes : Obligations.ResetHasResponseShapes := reset_inv pct

/-- Settles O53: `RESP_VALID` is 0, and the other two follow from that alone. -/
theorem resetLeavesNothingWaiting : Obligations.ResetLeavesNothingWaiting := by
  intro v
  have hvalid : (State.reset.codec v).respValid = false := by
    rw [State.reset_codec, Codec.reset_respValid]
  exact ⟨hvalid, respPorts_of_not_valid hvalid, reqReady_of_not_valid hvalid _⟩

end Sys2Proof.Machine

/-!
SUPPORT. The decoder and the encoder as inverses: a word that fits its format is one instruction, and the fields of a
word put together again are the word.
-/

namespace Sys2Proof.Machine

section Slices
variable {m : Nat} (w : BitVec m)

/-- Adjacent slots of a word, put together again, are the stretch of the word that they were read from. -/
theorem concatSlots_extract (W : Nat) : ∀ (n start : Nat),
    concatSlots n (fun i => w.extractLsb' (start + W * i.rev.val) W) = w.extractLsb' start (W * n) := by
  intro n
  induction n with
  | zero => intro start; exact Subsingleton.elim (α := BitVec 0) _ _
  | succ n ih =>
    intro start
    have hfirst : (fun i : Fin n => w.extractLsb' (start + W * i.castSucc.rev.val) W) =
        fun i => w.extractLsb' (start + W + W * i.rev.val) W := by
      funext i
      rw [Fin.rev_castSucc, Fin.val_succ, Nat.mul_succ, Nat.add_comm (W * _), Nat.add_assoc]
    rw [concatSlots, hfirst, ih, Fin.rev_last, Fin.val_zero]
    exact BitVec.extractLsb'_append_extractLsb'_eq_extractLsb' rfl

end Slices

section Requests
variable {W : Nat}

/-- The ports of a request word, put together again, are the word. -/
theorem reqWord_reqOperands (w : BitVec (reqLen W)) : reqWord (w.extractLsb' 0 1) (reqOperands w) = w := by
  have hids : concatSlots 64 (fun i => (reqOperands w).pos.sq[i.rev]) = w.extractLsb' 1 (4 * 64) := by
    rw [← concatSlots_extract]
    refine congrArg (concatSlots 64) (funext fun i => ?_)
    rw [reqOperands, Fin.getElem_fin, Vector.getElem_ofFn]
  rw [reqWord, hids]
  dsimp only [reqOperands]
  iterate 7 rw [BitVec.extractLsb'_append_extractLsb'_eq_extractLsb']
  · exact extract_all w
  all_goals rfl

theorem decodeRequest_of_even {v : Variant} {bits : Nat} (h : bits % 2 = 0) :
    decodeRequest v bits = .encode v (reqOperands (BitVec.ofNat (reqLen v.width) bits)) := if_pos h

theorem decodeRequest_of_odd {v : Variant} {bits : Nat} (h : bits % 2 = 1) :
    decodeRequest v bits = .decode v (reqOperands (BitVec.ofNat (reqLen v.width) bits)) :=
  if_neg (by omega)

end Requests

section Words

/-- What `decodeWord` answers for a word that fits its format; a 1 beyond the format's ports is not looked at. -/
def instrOf : Word → Instr
  | .request v bits => decodeRequest v bits
  | .plain f bits => decodePlain f bits

/-- The decoder rejects a word for nothing but a 1 beyond its format's ports (30_encoding.md R86). -/
theorem decodeWord_eq_ok_iff {w : Word} {i : Instr} : decodeWord w = .ok i ↔ WordFits w ∧ instrOf w = i := by
  have hword (n bits : Nat) (j : Instr) :
      (if fitsIn n bits then .ok j else .error .noSuchPort : Except Reject Instr) = .ok i ↔ bits < 2 ^ n ∧ j = i := by
    simp only [← fitsIn_iff, ite_eq_iff, Except.ok.injEq, reduceCtorEq, and_false, or_false]
  cases w with
  | request v bits => exact hword (reqLen v.width) bits (decodeRequest v bits)
  | plain f bits => exact hword f.width bits (decodePlain f bits)

/-- The word of an instruction has no 1 beyond the ports of its format. -/
theorem encodeInstr_fits (i : Instr) : WordFits (encodeInstr i) := by
  cases i
  case bv4 vec => exact Laws.EncodedFits.bv4 vec
  case bv12 vec => exact Laws.EncodedFits.bv12 vec
  case encode | decode | codeFor | occupantForW4 | occupantForW12 | metaPack | metaUnpack | pc12Unassigned |
    metaBlock => exact BitVec.isLt _
  all_goals simp [WordFits, encodeInstr, Format.width]

end Words

section TwelveBits
variable {c : BitVec 12}

/-- `c &&& (c - 1)` clears the lowest 1, so it is 0 exactly for 0 and the powers of two. -/
theorem twoOrMoreBits_eq_false_iff : twoOrMoreBits c = false ↔ c = 0#12 ∨ ∃ k < 12, c.toNat = 2 ^ k := by
  by_cases h0 : c = 0#12
  · simp [h0, twoOrMoreBits]
  have hpos : c.toNat ≠ 0 := fun h => h0 (BitVec.eq_of_toNat_eq h)
  have hsub : (c - 1#12).toNat = c.toNat - 1 := by
    rw [BitVec.toNat_sub_of_le (by rw [BitVec.le_def]; simp; omega)]; rfl
  have hand : twoOrMoreBits c = false ↔ c.toNat &&& (c.toNat - 1) = 0 := by
    rw [twoOrMoreBits, bne_eq_false_iff_eq, ← BitVec.toNat_inj, BitVec.toNat_and]
    exact hsub ▸ Iff.rfl
  rw [hand, Nat.and_sub_one_eq_zero_iff_isPowerOfTwo hpos]
  constructor
  · rintro ⟨k, hk⟩
    exact .inr ⟨k, (Nat.pow_lt_pow_iff_right (by decide)).1 (hk ▸ c.isLt), hk⟩
  · rintro (h | ⟨k, -, hk⟩)
    · exact absurd h h0
    · exact ⟨k, hk⟩

theorem decodePc12_of_twoOrMoreBits (h : twoOrMoreBits c = true) : decodePc12 c = .pc12Unassigned c := by
  have hval : twoOrMoreBits (BitVec.ofNat 12 c.toNat) = true := by simpa using h
  unfold decodePc12
  split
  case h_14 => rfl
  all_goals
    rename_i hc
    rw [hc] at hval
    exact absurd hval (by decide)

theorem encodeInstr_decodePc12 (c : BitVec 12) : encodeInstr (decodePc12 c) = .plain .pc12 c.toNat := by
  unfold decodePc12
  split
  case h_14 => rfl
  all_goals
    rename_i hc
    rw [hc]
    rfl

/-- The thirteen rows of 40_piece_code_table.md R113 are 0 and the twelve powers of two, so what no row takes has two
bits or more. -/
theorem decodePc12_wellFormed (c : BitVec 12) : (decodePc12 c).WellFormed = true := by
  unfold decodePc12
  split
  case h_14 =>
    by_contra h
    rw [Instr.WellFormed, Bool.not_eq_true, twoOrMoreBits_eq_false_iff] at h
    rcases h with rfl | ⟨k, hk, hc⟩
    · contradiction
    · interval_cases k <;> contradiction
  all_goals rfl

end TwelveBits

/-! The rows of 4-bit and 1-bit words, one by one. -/

section Rows

theorem encodeInstr_decodeOccid : ∀ id : BitVec 4, encodeInstr (decodeOccid id) = .plain .occid id.toNat := by decide
theorem encodeInstr_decodePc4 : ∀ c : BitVec 4, encodeInstr (decodePc4 c) = .plain .pc4 c.toNat := by decide
theorem encodeInstr_decodeErr : ∀ e : BitVec 1, encodeInstr (decodeErr e) = .plain .err e.toNat := by decide
theorem decodeOccid_wellFormed : ∀ id : BitVec 4, (decodeOccid id).WellFormed = true := by decide
theorem decodePc4_wellFormed : ∀ c : BitVec 4, (decodePc4 c).WellFormed = true := by decide
theorem decodeErr_wellFormed : ∀ e : BitVec 1, (decodeErr e).WellFormed = true := by decide

theorem decodeMetaPack_append (t : BitVec 1) (c : BitVec 4) (s : BitVec 1) (e : BitVec 6) :
    decodeMetaPack (t ++ c ++ s ++ e) = .metaPack t c s e := by
  have ht : (t ++ c ++ s ++ e).extractLsb' 11 1 = t := by
    rw [extract_append_left _ _ _ _ (by omega), extract_append_left _ _ _ _ (by omega),
      extract_append_left _ _ _ _ (by omega), extract_all]
  have hc : (t ++ c ++ s ++ e).extractLsb' 7 4 = c := by
    rw [extract_append_left _ _ _ _ (by omega), extract_append_left _ _ _ _ (by omega),
      extract_append_right _ _ _ _ (by omega), extract_all]
  have hs : (t ++ c ++ s ++ e).extractLsb' 6 1 = s := by
    rw [extract_append_left _ _ _ _ (by omega), extract_append_right _ _ _ _ (by omega), extract_all]
  have he : (t ++ c ++ s ++ e).extractLsb' 0 6 = e := by
    rw [extract_append_right _ _ _ _ (by omega), extract_all]
  exact congr (congr (congr (congrArg Instr.metaPack ht) hc) hs) he

theorem encodeInstr_decodeMetaPack (w : BitVec 12) : encodeInstr (decodeMetaPack w) = .plain .metaPack w.toNat := by
  rw [decodeMetaPack, encodeInstr]
  iterate 3 rw [BitVec.extractLsb'_append_extractLsb'_eq_extractLsb']
  · rw [extract_all]
  all_goals rfl

end Rows

section RoundTrips
variable {v : Variant} (bits : Nat)

theorem decodeRequest_reqWord_encode (r : ReqOperands v.width) :
    decodeRequest v (reqWord 0#1 r).toNat = .encode v r := by
  rw [decodeRequest_of_even (reqWord_mod_two 0#1 r), BitVec.ofNat_toNat, BitVec.setWidth_eq, reqOperands_reqWord]

theorem decodeRequest_reqWord_decode (r : ReqOperands v.width) :
    decodeRequest v (reqWord 1#1 r).toNat = .decode v r := by
  rw [decodeRequest_of_odd (reqWord_mod_two 1#1 r), BitVec.ofNat_toNat, BitVec.setWidth_eq, reqOperands_reqWord]

/-- The fields of an instruction's word are its operands. A word of `PC12.unassigned` needs its two bits: with fewer
it is a word of another row. -/
theorem instrOf_encodeInstr {i : Instr} (h : i.WellFormed = true) : instrOf (encodeInstr i) = i := by
  cases i
  case encode v r => exact decodeRequest_reqWord_encode r
  case decode v r => exact decodeRequest_reqWord_decode r
  case metaPack t c s e => simp [instrOf, encodeInstr, decodePlain, decodeMetaPack_append]
  case pc12Unassigned c => simpa [instrOf, encodeInstr, decodePlain] using decodePc12_of_twoOrMoreBits h
  case codeFor | occupantForW4 | occupantForW12 | metaUnpack | metaBlock | bv4 | bv12 =>
    simp [instrOf, encodeInstr, decodePlain]
  all_goals rfl

/-- Bits beyond the ports are lost, and no others. -/
theorem encodeInstr_decodeRequest :
    encodeInstr (decodeRequest v bits) = .request v (BitVec.ofNat (reqLen v.width) bits).toNat := by
  have hop : (BitVec.ofNat (reqLen v.width) bits).extractLsb' 0 1 = BitVec.ofNat 1 bits := by
    apply BitVec.eq_of_toNat_eq
    rw [BitVec.extractLsb'_toNat, Nat.shiftRight_zero, BitVec.toNat_ofNat, BitVec.toNat_ofNat,
      Nat.mod_mod_of_dvd _ (pow_dvd_pow 2 (Nat.le_add_left 1 _))]
  rcases Nat.mod_two_eq_zero_or_one bits with h | h
  · have h0 : BitVec.ofNat 1 bits = 0#1 := BitVec.eq_of_toNat_eq h
    rw [decodeRequest_of_even h, encodeInstr, ← h0, ← hop, reqWord_reqOperands]
  · have h1 : BitVec.ofNat 1 bits = 1#1 := BitVec.eq_of_toNat_eq h
    rw [decodeRequest_of_odd h, encodeInstr, ← h1, ← hop, reqWord_reqOperands]

theorem encodeInstr_decodePlain (f : Format) :
    encodeInstr (decodePlain f bits) = .plain f (BitVec.ofNat f.width bits).toNat := by
  cases f
  case occid => exact encodeInstr_decodeOccid _
  case pc4 => exact encodeInstr_decodePc4 _
  case pc12 => exact encodeInstr_decodePc12 _
  case metaPack => exact encodeInstr_decodeMetaPack _
  case err => exact encodeInstr_decodeErr _
  all_goals rfl

/-- A word that fits its format has nothing to lose. -/
theorem encodeInstr_instrOf {w : Word} (h : WordFits w) : encodeInstr (instrOf w) = w := by
  cases w with
  | request v bits => rw [instrOf, encodeInstr_decodeRequest, BitVec.toNat_ofNat, Nat.mod_eq_of_lt h]
  | plain f bits => rw [instrOf, encodeInstr_decodePlain, BitVec.toNat_ofNat, Nat.mod_eq_of_lt h]

theorem decodePlain_wellFormed (f : Format) : (decodePlain f bits).WellFormed = true := by
  cases f
  case occid => exact decodeOccid_wellFormed _
  case pc4 => exact decodePc4_wellFormed _
  case pc12 => exact decodePc12_wellFormed _
  case err => exact decodeErr_wellFormed _
  all_goals rfl

theorem decodeRequest_wellFormed : (decodeRequest v bits).WellFormed = true := by
  unfold decodeRequest
  split <;> rfl

theorem instrOf_wellFormed (w : Word) : (instrOf w).WellFormed = true := by
  cases w with
  | request v bits => exact decodeRequest_wellFormed bits
  | plain f bits => exact decodePlain_wellFormed bits f

/-- Decoding of a word that an instruction is encoded to. -/
theorem decodeWord_encodeInstr {i : Instr} (h : i.WellFormed = true) : decodeWord (encodeInstr i) = .ok i :=
  decodeWord_eq_ok_iff.2 ⟨encodeInstr_fits i, instrOf_encodeInstr h⟩

end RoundTrips

end Sys2Proof.Machine

/-!
PROOFS. The statements about words (30_encoding.md R70 to R86).
-/

namespace Sys2Proof.Machine

/-- Settles O57: the word fits its format, and its fields are the instruction's operands. -/
theorem encodedDecodesBack : Obligations.EncodedDecodesBack := fun _ h => decodeWord_encodeInstr h

/-- Settles O58: a word that decodes fits its format, and then its fields put together again are the word. -/
theorem decodedEncodesBack : Obligations.DecodedEncodesBack := by
  intro w i h
  obtain ⟨hfits, rfl⟩ := decodeWord_eq_ok_iff.1 h
  exact ⟨instrOf_wellFormed w, encodeInstr_instrOf hfits⟩

/-- Settles O59: the decoder rejects for no other reason. -/
theorem everyWordDecodes : Obligations.EveryWordDecodes := by
  intro w
  simp only [decodeWord_eq_ok_iff, exists_and_left, exists_eq', and_true]

/-- Settles O60: each word is the encoding of the instruction that the spec's table gives for it. -/
theorem wordsReadAsTabled : Obligations.WordsReadAsTabled :=
  ⟨fun v r => ⟨decodeWord_encodeInstr (i := .encode v r) rfl, decodeWord_encodeInstr (i := .decode v r) rfl⟩,
    decodeWord_encodeInstr (i := .occidBlackPawn) rfl, decodeWord_encodeInstr (i := .pc4Unassigned7) rfl,
    decodeWord_encodeInstr (i := .pc4BlackPawn) rfl, decodeWord_encodeInstr (i := .pc12WhiteKing) rfl,
    decodeWord_encodeInstr (i := .pc12Unassigned 0xC00#12) rfl,
    decodeWord_encodeInstr (i := .metaPack 1#1 0b1111#4 1#1 20#6) rfl, decodeWord_encodeInstr (i := .errLength) rfl⟩

end Sys2Proof.Machine

/-!
SUPPORT. What the ports of a request carry: which of them each operation reads, and the length port of a sequence of
any length.
-/

namespace Sys2Proof.Machine

section Requests
variable {W : Nat} (T : PieceCodeTable W)

/-- ENCODE depends on the Position that the ports carry and on nothing else of the request. -/
theorem exec_encode_congr {v : Variant} {r r' : ReqOperands v.width} (h : posOfPorts r'.pos = posOfPorts r.pos)
    (s : State) : exec (.encode v r') s = exec (.encode v r) s := by
  simp only [exec, execEncode, respondEncode, h]

/-- DECODE depends on the response to the request and on nothing else of it. -/
theorem exec_decode_congr {v : Variant} {r r' : ReqOperands v.width}
    (h : respondDecode (pct.of v) r' = respondDecode (pct.of v) r) (s : State) :
    exec (.decode v r') s = exec (.decode v r) s := by
  simp only [exec, execDecode, h]

theorem lengthOk_iff {len : BitVec 10} : lengthOk W len = true ↔ len.toNat = vecLen W := decide_eq_true_iff

theorem respondDecode_of_length_eq {r : ReqOperands W} (h : r.len.toNat = vecLen W) :
    respondDecode T r = respondDecoded T r.vec := if_pos (lengthOk_iff.2 h)

theorem respondDecode_of_length_ne {r : ReqOperands W} (h : r.len.toNat ≠ vecLen W) :
    respondDecode T r = raiseLengthMismatch W := if_neg (mt lengthOk_iff.1 h)

/-- 30_encoding.md R71: without a target the index port is not read. -/
theorem epOfPorts_of_none {epSome : BitVec 1} (h : epSome = 0#1) (ep : BitVec 6) : epOfPorts epSome ep = none := by
  rw [h]
  rfl

/-- 30_encoding.md R75: the id 0 names what the reserved ids are read as. -/
theorem occOfId_reserved_as_zero : ∀ x : BitVec 4, occOfId (if 13 ≤ x.toNat then 0#4 else x) = occOfId x := by decide

theorem occOfId_eq_empty_iff : ∀ x : BitVec 4, occOfId x = .empty ↔ x = 0#4 ∨ x = 13#4 ∨ x = 14#4 ∨ x = 15#4 := by
  decide

/-- The occupants on the ports are read square by square. -/
theorem posOfPorts_map_sq (p : PosPorts) {f : BitVec 4 → BitVec 4} (hf : ∀ x, occOfId (f x) = occOfId x) :
    posOfPorts { p with sq := p.sq.map f } = posOfPorts p := by
  simp only [posOfPorts, Fin.getElem_fin, Vector.getElem_map, hf]

/-- Both vector lengths can be told on the 10-bit length port from every other length, also from a saturated one
(30_encoding.md R76). -/
theorem decodeOperands_len_iff {v : Variant} {n : Nat} (bits : BitVec n) (any : ReqOperands v.width) :
    (decodeOperands bits any).len.toNat = vecLen v.width ↔ n = vecLen v.width := by
  have hL : vecLen v.width < 1023 := by cases v <;> decide
  rw [decodeOperands, BitVec.toNat_ofNat, Nat.mod_eq_of_lt (by omega)]
  omega

/-- A DECODE of a sequence of the right length is of that sequence. -/
theorem decodeOperands_vec {n : Nat} (h : n = vecLen W) (bits : BitVec n) (any : ReqOperands W) :
    (decodeOperands bits any).vec = bits.cast h := dif_pos h

theorem decodeSequence_of_length_eq {n : Nat} (h : n = vecLen W) (bits : BitVec n) :
    decodeSequence T bits = .ok (decodeVector T (bits.cast h)) := dif_pos h

theorem decodeSequence_of_length_ne {n : Nat} (h : n ≠ vecLen W) (bits : BitVec n) :
    decodeSequence T bits = .error .lengthMismatch := dif_neg h

end Requests

end Sys2Proof.Machine

/-!
SUPPORT. The rows of the formats: the fields of a word, and the sixteen occupant ids.
-/

namespace Sys2Proof.Machine

section Fields

/-- A slice that lies in the first part of a sequence. -/
theorem slice_append_left {m n : Nat} (x : BitVec m) (y : BitVec n) (k len : Nat) (h : k + len ≤ m) :
    slice (x ++ y) k len = slice x k len := by
  rw [slice, extract_append_left _ _ _ _ (by omega), slice]
  congr 1
  omega

/-- The last part of a sequence. -/
theorem slice_append_last {m n : Nat} (x : BitVec m) (y : BitVec n) : slice (x ++ y) m n = y := by
  rw [slice, extract_append_right _ _ _ _ (by omega), show m + n - m - n = 0 by omega, extract_all]

theorem slice_all {n : Nat} (x : BitVec n) : slice x 0 n = x := by
  rw [slice, Nat.sub_zero, Nat.sub_self, extract_all]

/-- A slice of a slice is a slice. -/
theorem slice_slice {m : Nat} (s : BitVec m) (k n j len : Nat) (hj : j + len ≤ n) (hk : k + n ≤ m) :
    slice (slice s k n) j len = slice s (k + j) len := by
  apply eq_of_seqBit_eq
  intro i hi
  rw [seqBit_slice _ _ _ _ hi hj, seqBit_slice _ _ _ _ (by omega) hk, seqBit_slice _ _ _ _ hi (by omega),
    Nat.add_assoc]

/-- The fields of a vector's metadata block, each at its index in the vector (30_encoding.md R79, R80). -/
theorem metaFieldsOf_metaBlockOf {W : Nat} (vec : BitVec (vecLen W)) :
    metaFieldsOf (metaBlockOf vec) =
      { turn := slice vec (64 * W) 1, wk := slice vec (64 * W + 1) 1, wq := slice vec (64 * W + 2) 1,
        bk := slice vec (64 * W + 3) 1, bq := slice vec (64 * W + 4) 1, ep := slice vec (64 * W + 5) 6 } := by
  simp only [metaFieldsOf, metaBlockOf]
  iterate 6 rw [slice_slice _ _ _ _ _ (by omega) le_rfl]
  rfl

/-- 30_encoding.md R80: the fields of a block stand in the order `t a b c d e`. -/
theorem metaFieldsOf_append (t a b c d : BitVec 1) (e : BitVec 6) :
    metaFieldsOf (t ++ a ++ b ++ c ++ d ++ e) = { turn := t, wk := a, wq := b, bk := c, bq := d, ep := e } := by
  have ht : slice (t ++ a ++ b ++ c ++ d ++ e) 0 1 = t := by
    rw [slice_append_left _ _ _ _ (by omega), slice_append_left _ _ _ _ (by omega),
      slice_append_left _ _ _ _ (by omega), slice_append_left _ _ _ _ (by omega),
      slice_append_left _ _ _ _ (by omega), slice_all]
  have ha : slice (t ++ a ++ b ++ c ++ d ++ e) 1 1 = a := by
    rw [slice_append_left _ _ _ _ (by omega), slice_append_left _ _ _ _ (by omega),
      slice_append_left _ _ _ _ (by omega), slice_append_left _ _ _ _ (by omega), slice_append_last]
  have hb : slice (t ++ a ++ b ++ c ++ d ++ e) 2 1 = b := by
    rw [slice_append_left _ _ _ _ (by omega), slice_append_left _ _ _ _ (by omega),
      slice_append_left _ _ _ _ (by omega), slice_append_last]
  have hc : slice (t ++ a ++ b ++ c ++ d ++ e) 3 1 = c := by
    rw [slice_append_left _ _ _ _ (by omega), slice_append_left _ _ _ _ (by omega), slice_append_last]
  have hd : slice (t ++ a ++ b ++ c ++ d ++ e) 4 1 = d := by
    rw [slice_append_left _ _ _ _ (by omega), slice_append_last]
  have he : slice (t ++ a ++ b ++ c ++ d ++ e) 5 6 = e := slice_append_last _ _
  rw [metaFieldsOf, MetaFields.mk.injEq]
  exact ⟨ht, ha, hb, hc, hd, he⟩

/-- The code slots of a vector, each at its index (30_encoding.md R79). -/
theorem getElem_slots {W : Nat} (vec : BitVec (vecLen W)) (i : Square) :
    (Vector.ofFn fun j : Square => slot vec j)[i] = slice vec (W * i.val) W := by
  rw [Fin.getElem_fin, Vector.getElem_ofFn, slot, Nat.mul_comm]

end Fields

section OccupantIds

/-- A row of the occupant ids gives the occupant that the id names. -/
theorem exec_decodeOccid (id : BitVec 4) (s : State) :
    exec (decodeOccid id) s = .next { s with env.value := .occupant (occOfId id) } := by
  obtain ⟨⟨n, hn⟩⟩ := id
  interval_cases n <;> rfl

end OccupantIds

end Sys2Proof.Machine

/-!
PROOFS. The statements about the ports and the formats (30_encoding.md).
-/

namespace Sys2Proof.Machine

/-- Settles O51, by the cases of a step: what each of them leaves has one of the three shapes. -/
theorem stepKeepsResponseShapes : Obligations.StepKeepsResponseShapes := fun _ _ hinv hst => (step_cases hst).inv hinv

/-- Settles O19, by the length of the sequence: the length port tells L from every other length. -/
theorem portsCarryAnyLength : Obligations.PortsCarryAnyLength := by
  intro v n bits any T
  by_cases hn : n = vecLen v.width
  · rw [respondDecode_of_length_eq T ((decodeOperands_len_iff bits any).2 hn), decodeOperands_vec hn,
      decodeSequence_of_length_eq T hn]
    rfl
  · rw [respondDecode_of_length_ne T (mt (decodeOperands_len_iff bits any).1 hn), decodeSequence_of_length_ne T hn]
    rfl

/-- Settles O5: the id of an occupant is read back, and four of the sixteen ids are read as `empty`. -/
theorem occupantIdsReadBack : Obligations.OccupantIdsReadBack :=
  ⟨fun o => ⟨occOfId_idOfOcc o, idOfOcc_le o⟩, occOfId_eq_empty_iff⟩

/-- Settles O28: the response does not depend on the ports that are varied. -/
theorem ignoredPorts : Obligations.IgnoredPorts := by
  intro v r r' s
  refine ⟨exec_encode_congr rfl s, exec_decode_congr rfl s, fun hlen => exec_decode_congr ?_ s,
    fun hnone => exec_encode_congr ?_ s⟩
  · rw [respondDecode_of_length_ne _ hlen]
    exact respondDecode_of_length_ne _ hlen
  · simp only [posOfPorts, metadataOfPorts, epOfPorts_of_none hnone]

/-- Settles O29: a reserved id and 0 are read as the same occupant. -/
theorem reservedIdsEncodeAsEmpty : Obligations.ReservedIdsEncodeAsEmpty := by
  intro v r s
  refine exec_encode_congr ?_ s
  exact posOfPorts_map_sq r.pos occOfId_reserved_as_zero

/-- Settles O34: the sixteen rows are the sixteen ids, in order. -/
theorem occidRowsEvaluate : Obligations.OccidRowsEvaluate := by
  unfold Obligations.OccidRowsEvaluate
  simp only [List.forall_mem_cons]
  exact ⟨exec_decodeOccid 0#4, exec_decodeOccid 1#4, exec_decodeOccid 2#4, exec_decodeOccid 3#4,
    exec_decodeOccid 4#4, exec_decodeOccid 5#4, exec_decodeOccid 6#4, exec_decodeOccid 7#4,
    exec_decodeOccid 8#4, exec_decodeOccid 9#4, exec_decodeOccid 10#4, exec_decodeOccid 11#4,
    exec_decodeOccid 12#4, exec_decodeOccid 13#4, exec_decodeOccid 14#4, exec_decodeOccid 15#4,
    List.forall_mem_nil _⟩

/-- Settles O37: each field of a word is the slice at its place. -/
theorem formatRowsEvaluate : Obligations.FormatRowsEvaluate := by
  intro s
  refine ⟨fun t a b c d e => ?_, fun vec => ?_, fun vec => ?_⟩
  · rw [← metaFieldsOf_append t a b c d e]
    rfl
  · exact ⟨Vector.ofFn fun i => slot (W := 4) vec i, metaFieldsOf (metaBlockOf (W := 4) vec), rfl,
      getElem_slots (W := 4) vec, metaFieldsOf_metaBlockOf (W := 4) vec⟩
  · exact ⟨Vector.ofFn fun i => slot (W := 12) vec i, metaFieldsOf (metaBlockOf (W := 12) vec), rfl,
      getElem_slots (W := 12) vec, metaFieldsOf_metaBlockOf (W := 12) vec⟩

/-- Settles O38: both rows give what their code stands for. -/
theorem errorCodeRowsEvaluate : Obligations.ErrorCodeRowsEvaluate := fun _ => ⟨rfl, rfl⟩

end Sys2Proof.Machine

/-!
SUPPORT. The Piece Code Table (40_piece_code_table.md): which patterns are assigned, what OCCUPANT_FOR gives for each
pattern, and what a piece code row gives.
-/

namespace Sys2Proof.Machine

section AnyTable
variable {W : Nat} {T : PieceCodeTable W} {c : BitVec W}

/-- 40_piece_code_table.md R115, R116: the fallback rule. -/
theorem occupantFor_of_not_assigned (h : ¬ Assigned T c) : occupantFor T c = .empty := by
  rcases occupantFor_cases T c with hc | ⟨-, hempty⟩
  · exact absurd ⟨_, hc⟩ h
  · exact hempty

/-- A pattern decodes to `empty` by its row in the table or by the fallback rule. -/
theorem occupantFor_eq_empty_iff : occupantFor T c = .empty ↔ c = codeFor T .empty ∨ ¬ Assigned T c := by
  constructor
  · intro h
    rcases occupantFor_cases T c with hc | ⟨hnone, -⟩
    · exact .inl (h ▸ hc).symm
    · exact .inr fun ⟨o, ho⟩ => hnone o ho
  · rintro (rfl | h)
    · exact occupantFor_codeFor T .empty
    · exact occupantFor_of_not_assigned h

/-- A pattern decodes to a piece by its row in the table only. -/
theorem occupantFor_eq_piece_iff {k : PieceKind} {col : Color} :
    occupantFor T c = .piece k col ↔ c = codeFor T (.piece k col) := by
  constructor
  · intro h
    rcases occupantFor_cases T c with hc | ⟨-, hempty⟩
    · exact (h ▸ hc).symm
    · exact Occupant.noConfusion (hempty.symm.trans h)
  · rintro rfl
    exact occupantFor_codeFor T _

/-- The thirteen rows of the table decide whether a pattern is assigned. -/
theorem not_assigned_iff_forall_mem : ¬ Assigned T c ↔ ∀ o ∈ allOccupants, codeFor T o ≠ c :=
  ⟨fun h o _ ho => h ⟨o, ho⟩, fun h ⟨o, ho⟩ => h o (mem_allOccupants o) ho⟩

end AnyTable

section Ids

/-- 30_encoding.md R74: the ids 0 to 12 are the ids of occupants. -/
theorem idOfOcc_occOfId : ∀ id : BitVec 4, id.toNat ≤ 12 → idOfOcc (occOfId id) = id := by decide

/-- 30_encoding.md R75: the reserved ids are read as 0 is, which is `empty`. -/
theorem occOfId_of_reserved {id : BitVec 4} (h : 13 ≤ id.toNat) : occOfId id = .empty := by
  rw [← occOfId_reserved_as_zero id, if_pos h]
  rfl

end Ids

section FourBits

/-- 40_piece_code_table.md R115: the three codes that no row of the default 4-bit table has. -/
theorem not_assigned_pct4_iff {c : BitVec 4} : ¬ Assigned pct4 c ↔ c = 0b0111#4 ∨ c = 0b1000#4 ∨ c = 0b1111#4 := by
  have hrows : ∀ c : BitVec 4, (∀ o ∈ allOccupants, codeFor pct4 o ≠ c) ↔
      c = 0b0111#4 ∨ c = 0b1000#4 ∨ c = 0b1111#4 := by decide
  exact not_assigned_iff_forall_mem.trans (hrows c)

theorem occupantFor_pct4_eq_empty_iff {c : BitVec 4} :
    occupantFor pct4 c = .empty ↔ c = 0b0000#4 ∨ c = 0b0111#4 ∨ c = 0b1000#4 ∨ c = 0b1111#4 := by
  rw [occupantFor_eq_empty_iff, not_assigned_pct4_iff]
  rfl

end FourBits

section TwelveBitCodes

/-- 40_piece_code_table.md R113: the piece of id `k` has the bit of value `2^(12-k)`. The law holds for `empty` too,
whose `2^12` has no bit among the twelve. -/
theorem codeFor_pct12 (o : Occupant) : codeFor pct12 o = BitVec.ofNat 12 (2 ^ (12 - (idOfOcc o).toNat)) := by
  rcases o with _ | ⟨k, col⟩
  · rfl
  · cases k <;> cases col <;> rfl

/-- The assigned patterns are 0 and the twelve powers of two. -/
theorem assigned_pct12_iff {c : BitVec 12} : Assigned pct12 c ↔ twoOrMoreBits c = false := by
  constructor
  · rintro ⟨_ | ⟨k, col⟩, rfl⟩
    · rfl
    · cases k <;> cases col <;> rfl
  · rw [twoOrMoreBits_eq_false_iff]
    rintro (rfl | ⟨k, hk, hc⟩)
    · exact ⟨.empty, rfl⟩
    · have hid : (BitVec.ofNat 4 (12 - k)).toNat = 12 - k := Nat.mod_eq_of_lt (by omega)
      refine ⟨occOfId (BitVec.ofNat 4 (12 - k)), ?_⟩
      rw [codeFor_pct12, idOfOcc_occOfId _ (by omega), hid, Nat.sub_sub_self hk.le, ← hc, BitVec.ofNat_toNat,
        BitVec.setWidth_eq]

theorem not_assigned_pct12_iff {c : BitVec 12} : ¬ Assigned pct12 c ↔ twoOrMoreBits c = true := by
  rw [assigned_pct12_iff, Bool.not_eq_false]

theorem occupantFor_pct12_eq_empty_iff {c : BitVec 12} :
    occupantFor pct12 c = .empty ↔ c = 0#12 ∨ twoOrMoreBits c = true := by
  rw [occupantFor_eq_empty_iff, not_assigned_pct12_iff]
  rfl

end TwelveBitCodes

section CodeRows

/-- A row of the 4-bit codes gives the occupant that its code decodes to. -/
theorem exec_decodePc4 (c : BitVec 4) (s : State) :
    exec (decodePc4 c) s = .next { s with env.value := .occupant (occupantFor pct4 c) } := by
  obtain ⟨⟨n, hn⟩⟩ := c
  interval_cases n <;> rfl

/-- A row of the 12-bit codes gives the occupant that its code decodes to. -/
theorem exec_decodePc12 (c : BitVec 12) (s : State) :
    exec (decodePc12 c) s = .next { s with env.value := .occupant (occupantFor pct12 c) } := by
  have hval : BitVec.ofNat 12 c.toNat = c := by simp
  unfold decodePc12
  split
  case h_14 => rfl
  all_goals
    rename_i hc
    rw [← hval, hc]
    rfl

end CodeRows

end Sys2Proof.Machine

/-!
PROOFS. The statements about the Piece Code Table (40_piece_code_table.md).
-/

namespace Sys2Proof.Machine

/-- Settles O1: no two occupants have one code. -/
theorem lookupInvertsCode : Obligations.LookupInvertsCode := fun _ => occupantFor_codeFor

/-- Settles O2: a pattern decodes to `empty` by its row or because it has none, and to a piece by its row only. -/
theorem fourBitFallback : Obligations.FourBitFallback := by
  refine ⟨fun _ _ => occupantFor_of_not_assigned, ?_, ?_, ?_, fun _ => occupantFor_pct4_eq_empty_iff, fun k col => ?_⟩
  · exact occupantFor_of_not_assigned (not_assigned_pct4_iff.2 (.inl rfl))
  · exact occupantFor_of_not_assigned (not_assigned_pct4_iff.2 (.inr (.inl rfl)))
  · exact occupantFor_of_not_assigned (not_assigned_pct4_iff.2 (.inr (.inr rfl)))
  · exact ⟨codeFor pct4 (.piece k col), occupantFor_codeFor pct4 _, fun _ => occupantFor_eq_piece_iff.1⟩

/-- Settles O3: the patterns without a row are those with two or more bits. -/
theorem twelveBitFallback : Obligations.TwelveBitFallback :=
  ⟨fun _ _ => occupantFor_of_not_assigned, fun _ => occupantFor_pct12_eq_empty_iff,
    occupantFor_pct12_eq_empty_iff.2 (.inr rfl), occupantFor_pct12_eq_empty_iff.2 (.inr rfl)⟩

/-- Settles O4: the codes are 0 and the powers of two that the ids give. -/
theorem twelveBitTableOneHot : Obligations.TwelveBitTableOneHot :=
  ⟨pct12_oneHot, rfl, fun _ _ => codeFor_pct12 _, fun _ => not_assigned_pct12_iff⟩

/-- Settles O30: the id is read as an occupant, and the table has its code. -/
theorem codeForEvaluates : Obligations.CodeForEvaluates := by
  intro s
  rw [exec_eq_execWith]
  refine ⟨execWith_codeFor_idOfOcc pct s, fun v id h => ?_⟩
  rw [execWith, execCodeFor, occOfId_of_reserved h]
  rfl

/-- Settles O31: an assigned pattern gives its occupant, every other pattern the fallback. -/
theorem occupantForEvaluates : Obligations.OccupantForEvaluates := by
  intro s
  rw [exec_eq_execWith]
  refine ⟨execWith_occupantForW4_codeFor pct s, fun c h => ?_, execWith_occupantForW12_codeFor pct s, fun c h => ?_⟩
  · have hno : ¬ Assigned pct4 c := fun ⟨o, ho⟩ => h o ho
    rw [execWith, execOccupantForW4, pct_cmc4, occupantFor_of_not_assigned hno]
    rfl
  · have hno : ¬ Assigned pct12 c := fun ⟨o, ho⟩ => h o ho
    rw [execWith, execOccupantForW12, pct_cmc12, occupantFor_of_not_assigned hno]
    rfl

/-- Settles O35: the first thirteen rows are the codes of the occupants in order, the other three are unassigned. -/
theorem fourBitRowsEvaluate : Obligations.FourBitRowsEvaluate := by
  intro p hp s
  have hrows : p ∈ allOccupants.map (fun o => (decodePc4 (codeFor pct4 o), o)) ++
      [0b0111#4, 0b1000#4, 0b1111#4].map (fun c => (decodePc4 c, .empty)) := hp
  rcases List.mem_append.1 hrows with h | h
  · obtain ⟨o, -, rfl⟩ := List.mem_map.1 h
    rw [exec_decodePc4, occupantFor_codeFor]
  · obtain ⟨c, hc, rfl⟩ := List.mem_map.1 h
    rw [exec_decodePc4, occupantFor_of_not_assigned (not_assigned_pct4_iff.2 (by simpa using hc))]

/-- Settles O36: the thirteen rows are the codes of the occupants in order; no occupant has a code of two or more
bits. -/
theorem twelveBitRowsEvaluate : Obligations.TwelveBitRowsEvaluate := by
  refine ⟨fun p hp s => ?_, fun c s h => ?_⟩
  · have hrows : p ∈ allOccupants.map (fun o => (decodePc12 (codeFor pct12 o), o)) := hp
    obtain ⟨o, -, rfl⟩ := List.mem_map.1 hrows
    rw [exec_decodePc12, occupantFor_codeFor]
  · rw [← decodePc12_of_twoOrMoreBits h, exec_decodePc12, occupantFor_of_not_assigned (not_assigned_pct12_iff.2 h)]

end Sys2Proof.Machine

/-!
SUPPORT. The metadata block (41_metadata_block.md): the bits of the fields read back, the fields of a packed block, and
the block as its fields one after another.
-/

namespace Sys2Proof.Machine

section FieldBits

@[simp] theorem colorOfBit_bitOfColor (c : Color) : colorOfBit (bitOfColor c) = c := by cases c <;> rfl
@[simp] theorem bit2b_b2bit (c : Bool) : bit2b (b2bit c) = c := by cases c <;> rfl
@[simp] theorem bitOfColor_colorOfBit : ∀ b : BitVec 1, bitOfColor (colorOfBit b) = b := by decide
@[simp] theorem b2bit_bit2b : ∀ b : BitVec 1, b2bit (bit2b b) = b := by decide

theorem colorOfBit_eq_ite_bit2b : ∀ b : BitVec 1, colorOfBit b = if bit2b b then .black else .white := by decide

/-- A slice of one bit is that bit. -/
theorem bit2b_slice_one {n : Nat} (s : BitVec n) (k : Nat) (h : k < n) : bit2b (slice s k 1) = seqBit s k := by
  have hbit : ∀ b : BitVec 1, bit2b b = seqBit b 0 := by decide
  rw [hbit, seqBit_slice _ _ _ _ Nat.one_pos h, Nat.add_zero]

/-- 30_encoding.md R83: the six bits of a target are its number; those of no target are the number 0. -/
@[simp] theorem squareOfBits_epField (o : Option Square) : squareOfBits (epField o) = o.getD 0 := by
  cases o with
  | none => rfl
  | some e => exact Fin.ext (Nat.mod_eq_of_lt e.isLt)

/-- 30_encoding.md R83: all 64 values of the six bits are squares. -/
@[simp] theorem epField_some_squareOfBits (b : BitVec 6) : epField (some (squareOfBits b)) = b :=
  BitVec.eq_of_toNat_eq (Nat.mod_eq_of_lt b.isLt)

/-- 30_encoding.md R71, R83: the six bits of the target that the ports carry. -/
theorem epField_epOfPorts (epSome : BitVec 1) (ep : BitVec 6) :
    epField (epOfPorts epSome ep) = if epSome = 1#1 then ep else 0#6 := by
  unfold epOfPorts
  split
  · exact epField_some_squareOfBits ep
  · rfl

end FieldBits

section Block

/-- Two slices, one right after the other, are one slice. -/
theorem slice_append_slice {m : Nat} (s : BitVec m) (k a b : Nat) (h : k + a + b ≤ m) :
    slice s k a ++ slice s (k + a) b = slice s k (a + b) := by
  rw [slice, slice, BitVec.extractLsb'_append_extractLsb'_eq_extractLsb' (by omega), slice]
  congr 1
  omega

/-- 30_encoding.md R80: a block is its six fields, one after another. -/
theorem append_metaFieldsOf (m : BitVec 11) :
    (metaFieldsOf m).turn ++ (metaFieldsOf m).wk ++ (metaFieldsOf m).wq ++ (metaFieldsOf m).bk ++
      (metaFieldsOf m).bq ++ (metaFieldsOf m).ep = m := by
  have h1 : slice m 0 1 ++ slice m 1 1 = slice m 0 2 := slice_append_slice m 0 1 1 (by omega)
  have h2 : slice m 0 2 ++ slice m 2 1 = slice m 0 3 := slice_append_slice m 0 2 1 (by omega)
  have h3 : slice m 0 3 ++ slice m 3 1 = slice m 0 4 := slice_append_slice m 0 3 1 (by omega)
  have h4 : slice m 0 4 ++ slice m 4 1 = slice m 0 5 := slice_append_slice m 0 4 1 (by omega)
  have h5 : slice m 0 5 ++ slice m 5 6 = slice m 0 11 := slice_append_slice m 0 5 6 (by omega)
  simp only [metaFieldsOf]
  rw [h1, h2, h3, h4, h5, slice_all]

/-- The fields of a packed block (41_metadata_block.md R130). -/
theorem metaFieldsOf_metaPack (m : Metadata) :
    metaFieldsOf (metaPack m) =
      { turn := bitOfColor m.turn, wk := b2bit m.wk, wq := b2bit m.wq, bk := b2bit m.bk, bq := b2bit m.bq,
        ep := epField m.ep } :=
  metaFieldsOf_append _ _ _ _ _ _

/-- 41_metadata_block.md R138: a target is got back, and no target is read as the target 0. -/
theorem metaUnpack_metaPack (m : Metadata) : metaUnpack (metaPack m) = { m with ep := some (m.ep.getD 0) } := by
  simp only [metaUnpack, metaUnpackInto_eq, metaFieldsOf_metaPack, colorOfBit_bitOfColor, bit2b_b2bit,
    squareOfBits_epField]

/-- 41_metadata_block.md R139: unpacking loses nothing. -/
theorem metaPack_metaUnpack (b : BitVec 11) : metaPack (metaUnpack b) = b := by
  simp only [metaUnpack, metaUnpackInto_eq, metaPack, bitOfColor_colorOfBit, b2bit_bit2b, epField_some_squareOfBits]
  exact append_metaFieldsOf b

/-- The turn and the four permissions of the ports keep their bits and their order (30_encoding.md R73, R80). -/
theorem append_castlingBits : ∀ (turn : BitVec 1) (castle : BitVec 4),
    turn ++ b2bit castle[3] ++ b2bit castle[2] ++ b2bit castle[1] ++ b2bit castle[0] = turn ++ castle := by decide

/-- The block of the metadata that the ports carry (30_encoding.md R73, 41_metadata_block.md R130). -/
theorem metaPack_metadataOfPorts (turn : BitVec 1) (castle : BitVec 4) (epSome : BitVec 1) (ep : BitVec 6) :
    metaPack (metadataOfPorts turn castle epSome ep) =
      turn ++ castle ++ (if epSome = 1#1 then ep else 0#6) := by
  simp only [metaPack, metadataOfPorts, bitOfColor_colorOfBit, epField_epOfPorts]
  rw [append_castlingBits]

/-- The metadata of a block, bit by bit (41_metadata_block.md R131 to R133). -/
theorem metaUnpack_eq_seqBit (m : BitVec 11) :
    metaUnpack m =
      { turn := if seqBit m 0 then .black else .white
        wk := seqBit m 1
        wq := seqBit m 2
        bk := seqBit m 3
        bq := seqBit m 4
        ep := some (squareOfBits (slice m 5 6)) } := by
  simp only [metaUnpack, metaUnpackInto_eq, metaFieldsOf, colorOfBit_eq_ite_bit2b]
  iterate 5 rw [bit2b_slice_one _ _ (by omega)]

end Block

end Sys2Proof.Machine

/-!
PROOFS. The statements about the metadata block (41_metadata_block.md).
-/

namespace Sys2Proof.Machine

/-- Settles O6: each field is read back from the bits that it was packed to. -/
theorem unpackOfPack : Obligations.UnpackOfPack := metaUnpack_metaPack

/-- Settles O7: the block is put together again from its fields; no target and the target 0 have the same six bits. -/
theorem packOfUnpack : Obligations.PackOfUnpack := by
  refine ⟨metaPack_metaUnpack, fun m hep => ?_, fun m hep => ?_⟩
  · obtain ⟨e, he⟩ := Option.ne_none_iff_exists'.1 hep
    rw [metaUnpack_metaPack, he, Option.getD_some, ← he]
  · rw [metaPack, hep]
    rfl

/-- Settles O32: the value is the block of the metadata that the ports carry. -/
theorem metaPackEvaluates : Obligations.MetaPackEvaluates := by
  intro turn castle epSome ep s
  rw [← metaPack_metadataOfPorts]
  rfl

/-- Settles O33: the value is the metadata of the block, and its target is the square of the last six bits. -/
theorem metaUnpackEvaluates : Obligations.MetaUnpackEvaluates := by
  intro m s
  refine ⟨squareOfBits (slice m 5 6), rfl, ?_⟩
  rw [← metaUnpack_eq_seqBit]
  rfl

end Sys2Proof.Machine

/-!
SUPPORT. What lies where in an encoded Position (42_encode.md R150): the bits of a square's code, the fields of the
metadata, and how many bits of the placement region are 1.
-/

namespace Sys2Proof.Machine

section Places
variable {W : Nat} (T : PieceCodeTable W) (P : Position)

/-- Bit `j` of the code of the occupant of square `i` is bit `i*W + j` of the vector. -/
theorem seqBit_encodePosition (i : Square) {j : Nat} (hj : j < W) :
    seqBit (encodePosition T P) (i.val * W + j) = seqBit (codeFor T (readSquare P i)) j := by
  have hfit : i.val * W + W ≤ vecLen W := by
    have : (i.val + 1) * W ≤ 64 * W := Nat.mul_le_mul_right W i.isLt
    rw [Nat.succ_mul] at this
    exact Nat.le_add_right_of_le this
  rw [← slot_encodePosition, slot, seqBit_slice _ _ _ _ hj hfit]

/-- A slice behind the placement region is a slice of the packed metadata. -/
theorem slice_encodePosition_metadata {k len : Nat} (h : k + len ≤ 11) :
    slice (encodePosition T P) (64 * W + k) len = slice (metaPack P.toMetadata) k len := by
  rw [← metaBlockOf_encodePosition T P, metaBlockOf, slice_slice _ _ _ _ _ h le_rfl]

end Places

section PortFields
variable {W : Nat} (T : PieceCodeTable W) (p : PosPorts)

/-- The ports' occupants stand in the slots (42_encode.md R150, 30_encoding.md R73). -/
theorem slot_encodePosition_posOfPorts (i : Square) :
    slot (encodePosition T (posOfPorts p)) i = codeFor T (occOfId p.sq[i]) := by
  rw [slot_encodePosition, readSquare, posOfPorts, Fin.getElem_fin, Vector.getElem_ofFn]

/-- The ports' metadata stands behind the slots: the turn port, the castling ports, and the target
(42_encode.md R150, 30_encoding.md R73, R80). -/
theorem slices_encodePosition_posOfPorts :
    slice (encodePosition T (posOfPorts p)) (64 * W) 1 = p.turn ∧
    slice (encodePosition T (posOfPorts p)) (64 * W + 1) 4 = p.castle ∧
    slice (encodePosition T (posOfPorts p)) (64 * W + 5) 6 = (if p.epSome = 1#1 then p.ep else 0#6) := by
  have hblock : metaPack (posOfPorts p).toMetadata = p.turn ++ p.castle ++ (if p.epSome = 1#1 then p.ep else 0#6) :=
    metaPack_metadataOfPorts _ _ _ _
  refine ⟨?turn, ?castle, ?target⟩
  case turn =>
    have h := slice_encodePosition_metadata T (posOfPorts p) (k := 0) (len := 1) (by omega)
    rw [Nat.add_zero] at h
    rw [h, hblock, slice_append_left _ _ _ _ (by omega), slice_append_left _ _ _ _ (by omega), slice_all]
  case castle =>
    rw [slice_encodePosition_metadata _ _ (by omega), hblock, slice_append_left _ _ _ _ (by omega), slice_append_last]
  case target =>
    rw [slice_encodePosition_metadata _ _ (by omega), hblock]
    exact slice_append_last (p.turn ++ p.castle) _

end PortFields

section OneBits

/-- A count over `n` blocks of `W` numbers, where each block holds one hit or none, is a count of blocks. -/
theorem countP_range_mul {W : Nat} (p : Nat → Bool) : ∀ (n : Nat) (q : Fin n → Bool),
    (∀ i : Fin n, (List.range W).countP (fun j => p (i.val * W + j)) = if q i then 1 else 0) →
    (List.range (n * W)).countP p = (List.finRange n).countP q := by
  intro n
  induction n with
  | zero => intro q _; simp
  | succ n ih =>
    intro q h
    have hinit := ih (fun i => q i.castSucc) fun i => h i.castSucc
    have hlast : (List.range W).countP (p ∘ (n * W + ·)) = if q (Fin.last n) then 1 else 0 := h (Fin.last n)
    rw [Nat.succ_mul, List.range_add, List.countP_append, List.countP_map, hinit, hlast, List.finRange_succ_last,
      List.countP_append, List.countP_map, List.countP_singleton]
    rfl

/-- 40_piece_code_table.md R113: a piece has one 1 bit in its default 12-bit code, `empty` has none. -/
theorem countP_seqBit_pct12 (o : Occupant) :
    (List.range 12).countP (fun j => seqBit (codeFor pct12 o) j) = if o ≠ .empty then 1 else 0 := by
  rcases o with _ | ⟨k, col⟩
  · rfl
  · cases k <;> cases col <;> rfl

end OneBits

end Sys2Proof.Machine

/-!
SUPPORT. ACCEPT at a codec that is ready, in the words of the statements about requests.
-/

namespace Sys2Proof.Machine

section Accepted
variable {s : State} {v : Variant}

/-- What an accepted request leaves unchanged besides the codec that answers: the waiting response is delivered, and
nothing else happens (47_transaction_interface.md R203, R204). -/
theorem stateAccept_frame_of_ready (hready : (s.codec v).respValid = false ∨ s.env.respReady = true)
    (a : Resp v.width) :
    (s.accept v a).taken v =
      (if (s.codec v).respValid = true then s.taken v ++ [(s.codec v).resp] else s.taken v) ∧
    (∀ w, w ≠ v → (s.accept v a).codec w = s.codec w ∧ (s.accept v a).taken w = s.taken w) ∧
    (s.accept v a).env.inputs = s.env.inputs ∧ (s.accept v a).env.respReady = s.env.respReady ∧
    (s.accept v a).env.value = s.env.value := by
  refine ⟨?_, fun w hw => ?_, stateAccept_inputs s v a, stateAccept_respReady s v a, stateAccept_value s v a⟩
  · rw [stateAccept_taken, observe_taken_of_ready s v hready]
  · exact ⟨stateAccept_codec_of_ne s v a hw, by rw [stateAccept_taken, observe_taken_of_ne s v hw]⟩

/-- A ready codec holds the answer to the request. -/
theorem stateAccept_codec_of_ready (hready : (s.codec v).respValid = false ∨ s.env.respReady = true)
    (a : Resp v.width) : (s.accept v a).codec v = { respValid := true, resp := a } := by
  rw [stateAccept_codec_self, accept_of_ready _ _ hready]

end Accepted

end Sys2Proof.Machine

/-!
PROOFS. The statements about ENCODE (42_encode.md).
-/

namespace Sys2Proof.Machine

/-- Settles O22: the 768 bits are 64 codes of 12, and each code of a piece has one 1 bit. -/
theorem oneBitsCountPieces : Obligations.OneBitsCountPieces := by
  intro P
  refine countP_range_mul (W := 12) (fun k => seqBit (encodePosition pct12 P) k) 64
    (fun i => readSquare P i ≠ .empty) fun i => ?_
  calc (List.range 12).countP (fun j => seqBit (encodePosition pct12 P) (i.val * 12 + j))
      = (List.range 12).countP (fun j => seqBit (codeFor pct12 (readSquare P i)) j) :=
        List.countP_congr fun j hj => by rw [seqBit_encodePosition pct12 P i (List.mem_range.1 hj)]
    _ = if decide (readSquare P i ≠ .empty) then 1 else 0 := by
        simpa only [decide_eq_true_eq] using countP_seqBit_pct12 (readSquare P i)

/-- Settles O24: the ready codec holds the encoded Position, and its slices are the codes and the ports. -/
theorem encodeAccepted : Obligations.EncodeAccepted := by
  intro v r s hready
  have hcodec := stateAccept_codec_of_ready hready (respondEncode (pct.of v) r)
  have hframe := stateAccept_frame_of_ready hready (respondEncode (pct.of v) r)
  obtain ⟨hturn, hcastle, htarget⟩ := slices_encodePosition_posOfPorts (pct.of v) r.pos
  refine ⟨s.accept v (respondEncode (pct.of v) r), rfl, ?_⟩
  rw [hcodec]
  exact ⟨rfl, rfl, rfl, rfl, slot_encodePosition_posOfPorts (pct.of v) r.pos, hturn, hcastle, htarget, hframe⟩

end Sys2Proof.Machine

/-!
SUPPORT. A decoded Position (43_decode.md R160), square by square and field by field: as DECODE of a vector gives it, as
the loop over a fresh Position fills it, and on the response ports.
-/

namespace Sys2Proof.Machine

section Decoded
variable {W : Nat} (T : PieceCodeTable W) (v : BitVec (vecLen W))

/-- 10_state.md R21: a Position is its metadata and its 64 squares. -/
theorem position_ext {P Q : Position} (hmeta : P.toMetadata = Q.toMetadata)
    (hsq : ∀ i : Square, readSquare P i = readSquare Q i) : P = Q := by
  obtain ⟨m, sq⟩ := P
  obtain ⟨m', sq'⟩ := Q
  obtain rfl : m = m' := hmeta
  rw [Position.mk.injEq]
  exact ⟨rfl, Vector.ext fun k hk => hsq ⟨k, hk⟩⟩

/-- 43_decode.md R162, R163: each square is the occupant of its slot. -/
@[simp] theorem readSquare_decodeVector (i : Square) :
    readSquare (decodeVector T v) i = occupantFor T (slot v i) := by
  rw [readSquare, decodeVector, Fin.getElem_fin, Vector.getElem_ofFn]

/-- The metadata of a decoded Position, each field at its index in the vector (41_metadata_block.md R131,
30_encoding.md R79, R80). -/
theorem decodeVector_toMetadata :
    (decodeVector T v).toMetadata =
      { turn := colorOfBit (slice v (64 * W) 1)
        wk := bit2b (slice v (64 * W + 1) 1)
        wq := bit2b (slice v (64 * W + 2) 1)
        bk := bit2b (slice v (64 * W + 3) 1)
        bq := bit2b (slice v (64 * W + 4) 1)
        ep := some (squareOfBits (slice v (64 * W + 5) 6)) } := by
  rw [decodeVector, metaUnpack, metaUnpackInto_eq, metaFieldsOf_metaBlockOf]

/-- 41_metadata_block.md R133: a decoded target is the square that the six en-passant bits number. -/
theorem decodeVector_ep : (decodeVector T v).ep = some (squareOfBits (slice v (64 * W + 5) 6)) := by
  rw [decodeVector_toMetadata]

/-- 45_roundtrip_laws.md R188: decoding an encoded Position changes nothing but a missing target. -/
theorem decodeVector_encodePosition (P : Position) : decodeVector T (encodePosition T P) = normPosition P := by
  refine position_ext ?metadata fun i => ?square
  case metadata =>
    rw [decodeVector, metaBlockOf_encodePosition, metaUnpack_metaPack]
    rfl
  case square =>
    rw [readSquare_decodeVector, slot_encodePosition, occupantFor_codeFor]
    rfl

/-- A Position with a target is normal already. -/
theorem normPosition_of_ep_ne_none {P : Position} (h : P.ep ≠ none) : normPosition P = P := by
  obtain ⟨e, he⟩ := Option.ne_none_iff_exists'.1 h
  rw [normPosition, he, Option.getD_some, ← he]

/-- The loop writes every square of the fresh Position, and the unpacker every field of its metadata. -/
theorem decodeInto_eq_decodeVector (fresh : Position) : decodeInto T fresh v = decodeVector T v := by
  obtain ⟨hsq, -⟩ := foldl_writeSquare (fun i => occupantFor T (slot v i)) (List.finRange 64) fresh
  refine position_ext ?metadata fun i => ?square
  case metadata => exact (metaUnpackInto_eq _ _).trans (metaUnpackInto_eq _ _).symm
  case square =>
    calc readSquare (decodeInto T fresh v) i
        = if i ∈ List.finRange 64 then occupantFor T (slot v i) else readSquare fresh i := hsq i
      _ = readSquare (decodeVector T v) i := by rw [if_pos (List.mem_finRange i), readSquare_decodeVector]

end Decoded

section DecodedPorts
variable {W : Nat} (T : PieceCodeTable W) (v : BitVec (vecLen W))

/-- 30_encoding.md R73: the index port of a Position carries the six bits of its target. -/
theorem portsOfPos_ep (P : Position) : (portsOfPos P).ep = epField P.ep := by
  rw [portsOfPos]
  cases P.ep <;> rfl

/-- The square ports of a decoded Position carry the ids of the slots' occupants (30_encoding.md R73). -/
theorem portsOfPos_decodeVector_sq (i : Square) :
    (portsOfPos (decodeVector T v)).sq[i] = idOfOcc (occupantFor T (slot v i)) := by
  rw [← readSquare_decodeVector, readSquare, portsOfPos, Fin.getElem_fin, Vector.getElem_ofFn]

/-- The turn port of a decoded Position is the turn bit of the block (30_encoding.md R73, R81). -/
theorem portsOfPos_decodeVector_turn : (portsOfPos (decodeVector T v)).turn = slice v (64 * W) 1 := by
  rw [portsOfPos, decodeVector_toMetadata, bitOfColor_colorOfBit]

/-- The castling ports of a decoded Position are the four castling bits of the block, in their order
(30_encoding.md R73, R80). -/
theorem portsOfPos_decodeVector_castle : (portsOfPos (decodeVector T v)).castle = slice v (64 * W + 1) 4 := by
  have hlen : 64 * W + 1 + 4 ≤ vecLen W := by rw [vecLen]; omega
  simp only [portsOfPos, decodeVector_toMetadata, b2bit_bit2b]
  calc slice v (64 * W + 1) 1 ++ slice v (64 * W + 2) 1 ++ slice v (64 * W + 3) 1 ++ slice v (64 * W + 4) 1
      = slice v (64 * W + 1) 2 ++ slice v (64 * W + 3) 1 ++ slice v (64 * W + 4) 1 := by
        rw [← slice_append_slice v (64 * W + 1) 1 1 (by omega)]
    _ = slice v (64 * W + 1) 3 ++ slice v (64 * W + 4) 1 := by
        rw [← slice_append_slice v (64 * W + 1) 2 1 (by omega)]
    _ = slice v (64 * W + 1) 4 := slice_append_slice v (64 * W + 1) 3 1 (by omega)

/-- The index port of a decoded Position is the six en-passant bits of the block (30_encoding.md R73, R83). -/
theorem portsOfPos_decodeVector_ep : (portsOfPos (decodeVector T v)).ep = slice v (64 * W + 5) 6 := by
  rw [portsOfPos_ep, decodeVector_ep, epField_some_squareOfBits]

end DecodedPorts

section DecodeRequest

/-- 43_decode.md R160, R161: a DECODE of declared length L is answered with the decoded Position. -/
theorem exec_decode_of_length_eq {v : Variant} {r : ReqOperands v.width} (h : r.len.toNat = vecLen v.width)
    (s : State) : exec (.decode v r) s = .next (s.accept v (respondDecoded (pct.of v) r.vec)) := by
  rw [← respondDecode_of_length_eq _ h]
  rfl

end DecodeRequest

end Sys2Proof.Machine

/-!
PROOFS. The statements about DECODE (43_decode.md).
-/

namespace Sys2Proof.Machine

/-- Settles O20: nothing of the fresh Position is left. -/
theorem freshPositionInvisible : Obligations.FreshPositionInvisible :=
  fun _ T fresh v => decodeInto_eq_decodeVector T v fresh

/-- Settles O25: the ready codec holds the decoded Position, and its ports are the slots' occupants and the bits of the
metadata block. -/
theorem decodeAccepted : Obligations.DecodeAccepted := by
  intro v r s hready hlen
  have hcodec := stateAccept_codec_of_ready hready (respondDecoded (pct.of v) r.vec)
  have hframe := stateAccept_frame_of_ready hready (respondDecoded (pct.of v) r.vec)
  refine ⟨s.accept v (respondDecoded (pct.of v) r.vec), exec_decode_of_length_eq hlen s, ?_⟩
  rw [hcodec]
  exact ⟨rfl, rfl, rfl, rfl, portsOfPos_decodeVector_sq _ _, portsOfPos_decodeVector_turn _ _,
    portsOfPos_decodeVector_castle _ _, portsOfPos_decodeVector_epSome _ _, portsOfPos_decodeVector_ep _ _, hframe⟩

/-- Settles O17: the target is read from the six bits, and a Position with a target is the decoding of its own
encoding, for which any table serves. -/
theorem decodedTargets : Obligations.DecodedTargets := by
  intro W T
  refine ⟨fun v => by rw [decodeVector_ep]; rfl, fun P => ⟨fun hep => ?onto, ?target⟩⟩
  case onto => exact ⟨encodePosition T P, by rw [decodeVector_encodePosition, normPosition_of_ep_ne_none hep]⟩
  case target =>
    rintro ⟨v, rfl⟩
    rw [decodeVector_ep]
    exact Option.some_ne_none _

/-- Settles O18, by the length test, which comes first and is the only one. -/
theorem lengthDecides : Obligations.LengthDecides :=
  fun _ _ T v => ⟨fun hne => decodeSequence_of_length_ne T hne v, fun heq => ⟨_, decodeSequence_of_length_eq T heq v⟩⟩

end Sys2Proof.Machine

/-!
SUPPORT. The round trips (45_roundtrip_laws.md): what `norm` changes, that ENCODE does not see it, what ENCODE of DECODE
does to a slot and to the block, and which bits of a vector decide which field of its decoding.
-/

namespace Sys2Proof.Machine

section Normal
variable (P : Position)

/-- 45_roundtrip_laws.md R188: `norm` touches no square. -/
@[simp] theorem readSquare_normPosition (i : Square) : readSquare (normPosition P) i = readSquare P i := rfl

/-- 45_roundtrip_laws.md R188: `norm` fills in a missing target, and touches no other field. -/
@[simp] theorem normPosition_toMetadata :
    (normPosition P).toMetadata = { P.toMetadata with ep := some (P.ep.getD 0) } := rfl

theorem normPosition_ep_ne_none : (normPosition P).ep ≠ none := Option.some_ne_none _

theorem normPosition_normPosition : normPosition (normPosition P) = normPosition P :=
  normPosition_of_ep_ne_none (normPosition_ep_ne_none P)

theorem normPosition_eq_self_iff : normPosition P = P ↔ P.ep ≠ none :=
  ⟨fun h => h ▸ normPosition_ep_ne_none P, normPosition_of_ep_ne_none⟩

/-- Two targets look alike to `norm` where they are equal, or are no target and the target 0. -/
theorem getD_zero_eq_iff (a b : Option Square) :
    a.getD 0 = b.getD 0 ↔ a = b ∨ (a = none ∧ b = some 0) ∨ (a = some 0 ∧ b = none) := by
  cases a <;> cases b <;> simp [eq_comm]

/-- Equal norms: all fields but the target are equal, and the targets look alike. -/
theorem normPosition_eq_iff_getD (P Q : Position) :
    normPosition P = normPosition Q ↔
      ({ P with ep := none } : Position) = { Q with ep := none } ∧ P.ep.getD 0 = Q.ep.getD 0 := by
  simp only [normPosition, Position.mk.injEq, Metadata.mk.injEq, Option.some.injEq]
  tauto

/-- A Position is its target and its other fields. -/
theorem eq_iff_ep_eq (P Q : Position) :
    P = Q ↔ ({ P with ep := none } : Position) = { Q with ep := none } ∧ P.ep = Q.ep := by
  obtain ⟨m, sq⟩ := P
  obtain ⟨m', sq'⟩ := Q
  cases m
  cases m'
  simp only [Position.mk.injEq, Metadata.mk.injEq]
  tauto

/-- 45_roundtrip_laws.md R189: `norm` confuses no target with the target 0, and nothing else. -/
theorem normPosition_eq_iff (P Q : Position) :
    normPosition P = normPosition Q ↔ P = Q ∨
      (({ P with ep := none } : Position) = { Q with ep := none } ∧
        ((P.ep = none ∧ Q.ep = some 0) ∨ (P.ep = some 0 ∧ Q.ep = none))) := by
  rw [normPosition_eq_iff_getD, getD_zero_eq_iff, eq_iff_ep_eq P Q, ← and_or_left]

end Normal

section Trips
variable {W : Nat} (T : PieceCodeTable W)

/-- 30_encoding.md R83: no target and the target 0 are packed alike. -/
theorem epField_some_getD (o : Option Square) : epField (some (o.getD 0)) = epField o := by
  cases o <;> rfl

/-- 45_roundtrip_laws.md R184, R189: ENCODE cannot tell a Position from its norm. -/
theorem encodePosition_normPosition (P : Position) : encodePosition T (normPosition P) = encodePosition T P := by
  refine vector_eq_of_slots (fun i => ?slot) ?block
  case slot => rw [slot_encodePosition, slot_encodePosition, readSquare_normPosition]
  case block =>
    rw [metaBlockOf_encodePosition, metaBlockOf_encodePosition, normPosition_toMetadata, metaPack, metaPack,
      epField_some_getD]

/-- 45_roundtrip_laws.md R189: what ENCODE cannot tell apart, DECODE gives back as one norm. -/
theorem encodePosition_eq_iff (P Q : Position) :
    encodePosition T P = encodePosition T Q ↔ normPosition P = normPosition Q := by
  constructor
  · intro h
    rw [← decodeVector_encodePosition T P, h, decodeVector_encodePosition]
  · intro h
    rw [← encodePosition_normPosition T P, h, encodePosition_normPosition]

/-- Looking a pattern up and coding what was found gives the pattern back exactly if it is in the table. -/
theorem codeFor_occupantFor_eq_iff (c : BitVec W) : codeFor T (occupantFor T c) = c ↔ Assigned T c := by
  constructor
  · exact fun h => ⟨_, h⟩
  · rintro ⟨o, rfl⟩
    rw [occupantFor_codeFor]

variable (v : BitVec (vecLen W))

/-- 45_roundtrip_laws.md R190: each slot is looked up and coded again. -/
theorem slot_encodePosition_decodeVector (i : Square) :
    slot (encodePosition T (decodeVector T v)) i = codeFor T (occupantFor T (slot v i)) := by
  rw [slot_encodePosition, readSquare_decodeVector]

/-- 45_roundtrip_laws.md R190: the last 11 bits go round unchanged. -/
theorem metaBlockOf_encodePosition_decodeVector :
    metaBlockOf (encodePosition T (decodeVector T v)) = metaBlockOf v := by
  rw [metaBlockOf_encodePosition, decodeVector, metaPack_metaUnpack]

/-- 45_roundtrip_laws.md R190: a vector goes round unchanged exactly if the table has all its slots. -/
theorem encodePosition_decodeVector_eq_iff :
    encodePosition T (decodeVector T v) = v ↔ ∀ i : Square, Assigned T (slot v i) := by
  simp only [← codeFor_occupantFor_eq_iff, ← slot_encodePosition_decodeVector]
  exact ⟨fun h i => by rw [h], fun h => vector_eq_of_slots h (metaBlockOf_encodePosition_decodeVector T v)⟩

end Trips

section Isolation

/-- A slice is decided by its own bits. -/
theorem slice_eq_iff {m : Nat} (s t : BitVec m) {k n : Nat} (h : k + n ≤ m) :
    slice s k n = slice t k n ↔ ∀ j < n, seqBit s (k + j) = seqBit t (k + j) := by
  constructor
  · intro heq j hj
    rw [← seqBit_slice s k n j hj h, heq, seqBit_slice t k n j hj h]
  · intro hbits
    refine eq_of_seqBit_eq fun j hj => ?_
    rw [seqBit_slice s k n j hj h, seqBit_slice t k n j hj h, hbits j hj]

variable {W : Nat} (T : PieceCodeTable W) (v w : BitVec (vecLen W))

/-- 45_roundtrip_laws.md R187: square `i` depends on slot `i` alone. -/
theorem readSquare_decodeVector_congr {i : Square} (h : slot v i = slot w i) :
    readSquare (decodeVector T v) i = readSquare (decodeVector T w) i := by
  rw [readSquare_decodeVector, readSquare_decodeVector, h]

/-- 45_roundtrip_laws.md R187: the 64 squares depend on the placement region alone. -/
theorem decodeVector_sq_congr (h : ∀ k < 64 * W, seqBit v k = seqBit w k) :
    (decodeVector T v).sq = (decodeVector T w).sq := by
  refine Vector.ext fun k hk => readSquare_decodeVector_congr (i := ⟨k, hk⟩) T v w ?_
  have hregion : k * W + W ≤ 64 * W := by
    rw [← Nat.succ_mul]
    exact Nat.mul_le_mul_right W hk
  exact (slice_eq_iff v w (Nat.le_add_right_of_le hregion)).2 fun j hj => h _ (by omega)

/-- 45_roundtrip_laws.md R187: the metadata depends on the last 11 bits alone. -/
theorem decodeVector_toMetadata_congr (h : ∀ k, 64 * W ≤ k → k < 64 * W + 11 → seqBit v k = seqBit w k) :
    (decodeVector T v).toMetadata = (decodeVector T w).toMetadata := by
  have hblock : metaBlockOf v = metaBlockOf w :=
    (slice_eq_iff v w le_rfl).2 fun j hj => h _ (by omega) (by omega)
  rw [decodeVector, decodeVector, hblock]

/-- The turn of a decoded Position is the turn bit (30_encoding.md R79 to R81). -/
theorem decodeVector_turn : (decodeVector T v).turn = if seqBit v (64 * W) then .black else .white := by
  rw [decodeVector_toMetadata, colorOfBit_eq_ite_bit2b, bit2b_slice_one _ _ (by rw [vecLen]; omega)]

/-- Each permission of a decoded Position is one bit (41_metadata_block.md R131, 30_encoding.md R79, R80). -/
theorem decodeVector_permissions :
    (decodeVector T v).wk = seqBit v (64 * W + 1) ∧ (decodeVector T v).wq = seqBit v (64 * W + 2) ∧
    (decodeVector T v).bk = seqBit v (64 * W + 3) ∧ (decodeVector T v).bq = seqBit v (64 * W + 4) := by
  rw [decodeVector_toMetadata]
  iterate 4 rw [bit2b_slice_one _ _ (by rw [vecLen]; omega)]
  exact ⟨rfl, rfl, rfl, rfl⟩

/-- 45_roundtrip_laws.md R187: `turn` depends on the turn bit alone, and tells it. -/
theorem decodeVector_turn_eq_iff :
    (decodeVector T v).turn = (decodeVector T w).turn ↔ seqBit v (64 * W) = seqBit w (64 * W) := by
  rw [decodeVector_turn, decodeVector_turn]
  cases seqBit v (64 * W) <;> cases seqBit w (64 * W) <;> decide

/-- 45_roundtrip_laws.md R187: the target depends on the six en-passant bits alone, and tells them. -/
theorem decodeVector_ep_eq_iff :
    (decodeVector T v).ep = (decodeVector T w).ep ↔
      ∀ j < 6, seqBit v (64 * W + 5 + j) = seqBit w (64 * W + 5 + j) := by
  rw [← slice_eq_iff v w (by rw [vecLen]), decodeVector_ep, decodeVector_ep]
  constructor
  · intro h
    rw [← epField_some_squareOfBits (slice v _ 6), h, epField_some_squareOfBits]
  · intro h
    rw [h]

/-- The four castling bits of an encoding are the permissions: its decoding has them both (42_encode.md R153,
45_roundtrip_laws.md R187). -/
theorem seqBit_encodePosition_permissions (P : Position) :
    seqBit (encodePosition T P) (64 * W + 1) = P.wk ∧ seqBit (encodePosition T P) (64 * W + 2) = P.wq ∧
    seqBit (encodePosition T P) (64 * W + 3) = P.bk ∧ seqBit (encodePosition T P) (64 * W + 4) = P.bq := by
  obtain ⟨hwk, hwq, hbk, hbq⟩ := decodeVector_permissions T (encodePosition T P)
  rw [← hwk, ← hwq, ← hbk, ← hbq, decodeVector_encodePosition]
  exact ⟨rfl, rfl, rfl, rfl⟩

/-- 42_encode.md R153, 45_roundtrip_laws.md R187: the turn alone decides the turn bit. -/
theorem seqBit_encodePosition_turn_congr {P Q : Position} (h : P.turn = Q.turn) :
    seqBit (encodePosition T P) (64 * W) = seqBit (encodePosition T Q) (64 * W) := by
  refine (decodeVector_turn_eq_iff T _ _).1 ?_
  rw [decodeVector_encodePosition, decodeVector_encodePosition]
  exact h

/-- 42_encode.md R153, 45_roundtrip_laws.md R187: the target alone decides the six en-passant bits. -/
theorem seqBit_encodePosition_ep_congr {P Q : Position} (h : P.ep = Q.ep) :
    ∀ j < 6, seqBit (encodePosition T P) (64 * W + 5 + j) = seqBit (encodePosition T Q) (64 * W + 5 + j) := by
  refine (decodeVector_ep_eq_iff T _ _).1 ?_
  rw [decodeVector_encodePosition, decodeVector_encodePosition, normPosition, normPosition, h]

end Isolation

section Grid

/-- 30_encoding.md R91: the grid shows the squares alone, which `norm` does not touch. -/
theorem symbolGrid_normPosition (P : Position) : symbolGrid (normPosition P) = symbolGrid P := rfl

end Grid

end Sys2Proof.Machine

/-!
PROOFS. The statements about the round trips (45_roundtrip_laws.md).
-/

namespace Sys2Proof.Machine

/-- Settles O8: the round trip is `norm`, which touches no square. -/
theorem roundTripKeepsPlacement : Obligations.RoundTripKeepsPlacement := by
  intro W T P i
  rw [decodeVector_encodePosition, readSquare_normPosition]

/-- Settles O9: the round trip is `norm`, which touches neither the turn nor a permission. -/
theorem roundTripKeepsTurnAndCastling : Obligations.RoundTripKeepsTurnAndCastling := by
  intro W T P
  rw [decodeVector_encodePosition, normPosition_toMetadata]
  exact ⟨rfl, rfl, rfl, rfl, rfl⟩

/-- Settles O10: the round trip is `norm`, which keeps a target and fills in a missing one. -/
theorem roundTripEnPassant : Obligations.RoundTripEnPassant := by
  intro W T P
  rw [decodeVector_encodePosition, normPosition_toMetadata]
  exact ⟨fun e he => by rw [he, Option.getD_some], fun hnone => by rw [hnone, Option.getD_none]⟩

/-- Settles O11: `norm` leaves a Position with a target, and a Position it has filled in has one. -/
theorem roundTripIsNorm : Obligations.RoundTripIsNorm := fun _ T P =>
  ⟨decodeVector_encodePosition T P, normPosition_normPosition P, normPosition_eq_self_iff P⟩

/-- Settles O12: DECODE recovers the norm from the encoding, and ENCODE does not see more than the norm. -/
theorem encodeInjectiveUpToDefect : Obligations.EncodeInjectiveUpToDefect := fun _ T P Q =>
  ⟨encodePosition_eq_iff T P Q, normPosition_eq_iff P Q⟩

/-- Settles O13: each slot is looked up and coded again, and the metadata block loses nothing. -/
theorem encodeOfDecode : Obligations.EncodeOfDecode := by
  intro W T v
  refine ⟨encodePosition_decodeVector_eq_iff T v, fun i => ⟨fun hassigned => ?kept, fun hnot => ?replaced⟩,
    metaBlockOf_encodePosition_decodeVector T v⟩
  case kept => rw [slot_encodePosition_decodeVector, (codeFor_occupantFor_eq_iff T _).2 hassigned]
  case replaced => rw [slot_encodePosition_decodeVector, occupantFor_of_not_assigned hnot]

/-- Settles O14: a decoded Position is normal already, and ENCODE does not see the norm. -/
theorem roundTripsIdempotent : Obligations.RoundTripsIdempotent := by
  refine fun W T => ⟨fun v => ?decoded, fun P => ?encoded⟩
  case decoded =>
    have htarget : (decodeVector T v).ep ≠ none := by
      rw [decodeVector_ep]
      exact Option.some_ne_none _
    rw [decodeVector_encodePosition, normPosition_of_ep_ne_none htarget]
  case encoded => rw [decodeVector_encodePosition, encodePosition_normPosition]

/-- Settles O15: an encoding holds codes of occupants, and a vector with such slots is the encoding of its decoding. -/
theorem imageOfEncode : Obligations.ImageOfEncode := by
  intro W T v
  constructor
  · rintro ⟨P, rfl⟩ i
    exact ⟨readSquare P i, (slot_encodePosition T P i).symm⟩
  · exact fun h => ⟨decodeVector T v, (encodePosition_decodeVector_eq_iff T v).2 h⟩

/-- Settles O16: each field of a decoded Position is read from its own bits; and the bits of an encoding are those
that its decoding, the norm of the Position, is read from. -/
theorem fieldIsolation : Obligations.FieldIsolation := by
  refine fun W T => ⟨fun v w => ?decode, fun P Q => ?encode⟩
  case decode =>
    obtain ⟨hwk, hwq, hbk, hbq⟩ := decodeVector_permissions T v
    obtain ⟨hwk', hwq', hbk', hbq'⟩ := decodeVector_permissions T w
    exact ⟨decodeVector_sq_congr T v w, decodeVector_toMetadata_congr T v w,
      fun i => readSquare_decodeVector_congr T v w, (decodeVector_turn_eq_iff T v w).2,
      fun h => by rw [hwk, hwk', h], fun h => by rw [hwq, hwq', h], fun h => by rw [hbk, hbk', h],
      fun h => by rw [hbq, hbq', h], (decodeVector_ep_eq_iff T v w).2⟩
  case encode =>
    obtain ⟨hwk, hwq, hbk, hbq⟩ := seqBit_encodePosition_permissions T P
    obtain ⟨hwk', hwq', hbk', hbq'⟩ := seqBit_encodePosition_permissions T Q
    exact ⟨fun i h => by rw [slot_encodePosition, slot_encodePosition, h], seqBit_encodePosition_turn_congr T,
      fun h => by rw [hwk, hwk', h], fun h => by rw [hwq, hwq', h], fun h => by rw [hbk, hbk', h],
      fun h => by rw [hbq, hbq', h], seqBit_encodePosition_ep_congr T⟩

/-- Settles O21: the block and the round trip do not depend on the table, and neither length is the other's. -/
theorem acrossVariants : Obligations.AcrossVariants := fun T4 T12 P =>
  ⟨by rw [metaBlockOf_encodePosition, metaBlockOf_encodePosition], decodeVector_encodePosition T4 P,
    decodeVector_encodePosition T12 P, decodeSequence_of_length_ne T12 (by decide),
    decodeSequence_of_length_ne T4 (by decide)⟩

/-- Settles O23: the grid of the round trip is the grid of the board, for the grid shows the squares alone. -/
theorem symbolGridScenario : Obligations.SymbolGridScenario := by
  intro v m
  rw [decodeVector_encodePosition, symbolGrid_normPosition]
  rfl

end Sys2Proof.Machine

/-!
SUPPORT. The transaction layer (47_transaction_interface.md): which meaning a decoded word is given, what an edge does
that takes no response, and one transaction from its request to the taking of its response.
-/

namespace Sys2Proof.Machine

section DecodedWords
variable {run : Instr → State → Host.Outcome State Fault Refusal} {s : State} {rest : List Input} {bits : Nat}
  {i : Instr}

/-- 47_transaction_interface.md R205: the pin of the edge is read together with the request. -/
theorem takeNext_of_decoded_request {v : Variant} {ready : Bool}
    (hin : s.env.inputs = .edge v false ready (.word bits) :: rest) (hdec : decodeWord (.request v bits) = .ok i) :
    takeNext run s = run i ((s.withInputs rest).withRespReady ready) := by
  simp only [takeNext, hin, takeInput, clockEdge, Bool.false_eq_true, if_false, runWord, hdec]

theorem takeNext_of_decoded_eval {f : Format} (hin : s.env.inputs = .eval f bits :: rest)
    (hdec : decodeWord (.plain f bits) = .ok i) : takeNext run s = run i (s.withInputs rest) := by
  simp only [takeNext, hin, takeInput, runWord, hdec]

end DecodedWords

section Requested
variable (v : Variant) (r : ReqOperands v.width) (s : State)

theorem exec_encode : exec (.encode v r) s = .next (s.accept v (respondEncode (pct.of v) r)) := rfl

theorem exec_decode : exec (.decode v r) s = .next (s.accept v (respondDecode (pct.of v) r)) := rfl

end Requested

section Edges
variable {T : Tables} {s t : State} {v : Variant} {rest : List Input}

/-- 47_transaction_interface.md R204: without a waiting response or without a ready host nothing is delivered. -/
theorem stateDeliver_of_not_taken (h : (s.codec v).respValid = false ∨ s.env.respReady = false) :
    s.deliver v = s := by
  have hobserve : s.observe v = s := by
    rw [State.observe, delivers, if_neg]
    rcases h with h | h <;> simp [h]
  rcases deliver_cases (s.codec v) s.env.respReady with ⟨hv, hr, -⟩ | ⟨-, heq⟩
  · simp [hv, hr] at h
  · rw [State.deliver, hobserve, heq, setCodec_self]

/-- The waiting response is taken once and is not valid any more; the register keeps its contents (R206). -/
theorem stateDeliver_of_taken (hv : (s.codec v).respValid = true) (hr : s.env.respReady = true) :
    (s.deliver v).codec v = { s.codec v with respValid := false } ∧
    (s.deliver v).taken v = s.taken v ++ [(s.codec v).resp] := by
  constructor
  · rw [stateDeliver_codec_self, Codec.deliver, delivers, hv, hr, Bool.and_self, if_pos rfl]
  · rw [stateDeliver_taken, observe_taken_self, if_pos ⟨hv, hr⟩]

/-- 47_transaction_interface.md R206: a waiting response stands on the ports. -/
theorem respPorts_of_valid {W : Nat} {c : Codec W} (h : c.respValid = true) : c.respPorts = some c.resp := if_pos h

/-- 47_transaction_interface.md R205: DELIVER clears `RESP_VALID` and writes nothing else. -/
@[simp] theorem deliver_resp {W : Nat} (c : Codec W) (ready : Bool) : (c.deliver ready).resp = c.resp := by
  rcases deliver_cases c ready with ⟨-, -, heq⟩ | ⟨-, heq⟩ <;> rw [heq]

/-- 70_reset_and_hazards.md R258: an edge that finds a waiting response and a host that does not take it uses up its
input, and that is all, whatever is presented. -/
theorem Stepped.eq_of_not_taken (hst : Stepped T s t) {req : Presented}
    (hin : s.env.inputs = .edge v false false req :: rest) (hv : (s.codec v).respValid = true) :
    t = (s.withInputs rest).withRespReady false := by
  cases hst with
  | deliver v' ready' rest' hin' heq =>
    cases hin.symm.trans hin'
    rw [heq, stateDeliver_of_not_taken (.inr rfl)]
  | request v' ready' bits' rest' hin' _ heq =>
    cases hin.symm.trans hin'
    rw [heq, stateAccept_of_busy _ _ _ (by simpa using hv) rfl]
  | busy v' rest' hin' _ heq =>
    cases hin.symm.trans hin'
    exact heq
  | idle hin' _ => cases hin.symm.trans hin'
  | reset _ _ _ _ hin' _ => cases hin.symm.trans hin'
  | evaluated _ _ _ _ hin' _ _ => cases hin.symm.trans hin'

end Edges

section Transactions
variable {v : Variant} {s t u : State} {as bs : List (Resp v.width)} {rest : List Input}

/-- From `s` to `t` the host has taken `as` from codec `v`, which is left with nothing waiting; `rest` is still to
come, and the other codec has not been touched. -/
structure Answered (v : Variant) (s t : State) (as : List (Resp v.width)) (rest : List Input) : Prop where
  inputs : t.env.inputs = rest
  idle : (t.codec v).respValid = false
  taken : t.taken v = s.taken v ++ as
  others : ∀ w, w ≠ v → t.codec w = s.codec w ∧ t.taken w = s.taken w

theorem Answered.refl (hidle : (s.codec v).respValid = false) (hin : s.env.inputs = rest) : Answered v s s [] rest :=
  ⟨hin, hidle, (List.append_nil _).symm, fun _ _ => ⟨rfl, rfl⟩⟩

theorem Answered.trans {rest' : List Input} (h : Answered v s u as rest) (h' : Answered v u t bs rest') :
    Answered v s t (as ++ bs) rest' where
  inputs := h'.inputs
  idle := h'.idle
  taken := by rw [h'.taken, h.taken, List.append_assoc]
  others w hw := by
    obtain ⟨hcodec, htaken⟩ := h.others w hw
    obtain ⟨hcodec', htaken'⟩ := h'.others w hw
    exact ⟨hcodec'.trans hcodec, htaken'.trans htaken⟩

/-- 47_transaction_interface.md R203, R204: the first edge of a transaction leaves `F` of its request waiting, the
second takes it. -/
theorem step_step_transaction {q : Request v.width} (hidle : (s.codec v).respValid = false)
    (hin : s.env.inputs = transaction v q ++ rest) :
    ∃ u t, step s = .next u ∧ step u = .next t ∧ Answered v s t [respond (pct.of v) q.op q.operands] rest := by
  obtain ⟨u, hstep, hcodec, htaken, hothers, hinputs, -⟩ := exec_runs.takeNext_request_of_ready (q := q)
    (rest := .edge v false true .none :: rest) hin (.inl hidle)
  rw [if_neg (by simp [hidle])] at htaken
  have hvalid : (((u.withInputs rest).withRespReady true).codec v).respValid = true := by simp [hcodec]
  obtain ⟨hcodec', htaken'⟩ := stateDeliver_of_taken hvalid rfl
  refine ⟨u, _, hstep, takeNext_of_deliver hinputs, by simp, by rw [hcodec'], ?taken, fun w hw => ?others⟩
  case taken => simpa [htaken, hcodec] using htaken'
  case others => simpa [hw] using hothers w hw

/-- 47_transaction_interface.md R207: a program is its transactions one after another, two steps each. -/
theorem run_programInputs (qs : List (Request v.width)) (hidle : (s.codec v).respValid = false)
    (hin : s.env.inputs = programInputs v qs) :
    ∃ t, Sys2Proof.core.run (2 * qs.length) s = .next t ∧ Answered v s t (programResponses (pct.of v) qs) [] := by
  induction qs generalizing s with
  | nil => exact ⟨s, rfl, Answered.refl hidle hin⟩
  | cons q qs ih =>
    obtain ⟨u, s', hfirst, hsecond, hq⟩ := step_step_transaction hidle hin
    obtain ⟨t, hrun, hqs⟩ := ih hq.idle hq.inputs
    refine ⟨t, ?_, hq.trans hqs⟩
    calc Sys2Proof.core.run (2 * qs.length + 2) s
        = Sys2Proof.core.run (2 * qs.length + 1) u := run_succ_of_next Sys2Proof.core _ s u hfirst
      _ = Sys2Proof.core.run (2 * qs.length) s' := run_succ_of_next Sys2Proof.core _ u s' hsecond
      _ = .next t := hrun

end Transactions

end Sys2Proof.Machine

/-!
PROOFS. The statements about transactions (47_transaction_interface.md).
-/

namespace Sys2Proof.Machine

/-- Settles O49, by induction on the program: each transaction leaves nothing waiting, so the next one finds the codec
ready. -/
theorem programAnsweredInOrder : Obligations.ProgramAnsweredInOrder := by
  intro v qs s hidle hin
  obtain ⟨t, hrun, hanswered⟩ := run_programInputs qs hidle hin
  exact ⟨t, hrun, hanswered.inputs, hanswered.idle, hanswered.taken, hanswered.others⟩

/-- Settles O40: the request's word carries the request, and ACCEPT at a ready codec stores `F` of it. -/
theorem edgeAcceptsRequest : Obligations.EdgeAcceptsRequest := by
  intro s v ready q rest hin hready
  obtain ⟨t, hstep, hcodec, hframe⟩ := exec_runs.takeNext_request_of_ready hin hready
  exact ⟨t, hstep, by rw [hcodec], by rw [hcodec], hframe⟩

/-- Settles O43: such an edge changes the environment alone. -/
theorem waitingResponseHeld : Obligations.WaitingResponseHeld := by
  intro s t v req rest hin hvalid hstep
  obtain rfl := (step_cases hstep).eq_of_not_taken hin hvalid
  rw [withRespReady_codec, withInputs_codec, withRespReady_taken, withInputs_taken]
  exact ⟨rfl, rfl, respPorts_of_valid hvalid⟩

/-- Settles O27: both operations are ACCEPT, and a busy codec does not accept. -/
theorem busyRequestWaits : Obligations.BusyRequestWaits := by
  intro v r s hvalid hready
  rw [exec_encode, exec_decode]
  exact ⟨congrArg _ (stateAccept_of_busy s v _ hvalid hready), congrArg _ (stateAccept_of_busy s v _ hvalid hready)⟩

/-- Settles O39: an edge with a request and an evaluation each decode their word and run what it decodes to. -/
theorem stepRunsDecoded : Obligations.StepRunsDecoded :=
  ⟨fun _ _ _ _ _ _ hin hdec => takeNext_of_decoded_request hin hdec,
    fun _ _ _ _ _ hin hdec => takeNext_of_decoded_eval hin hdec⟩

/-- Settles O42: the edge is DELIVER, which takes a waiting response where the host is ready and else does nothing. -/
theorem deliverEdge : Obligations.DeliverEdge := by
  intro s v ready rest hin
  refine ⟨_, takeNext_of_deliver hin, by simp, fun ⟨hvalid, hready⟩ => ?taken, fun hnot => ?not,
    fun w hw => by simp [hw], by simp, by simp⟩
  case taken =>
    obtain ⟨hcodec, htaken⟩ := stateDeliver_of_taken (s := (s.withInputs rest).withRespReady ready) (v := v)
      (by simpa using hvalid) hready
    exact ⟨by rw [hcodec], by simpa using htaken⟩
  case not =>
    rw [stateDeliver_of_not_taken (by simpa using hnot)]
    simp

end Sys2Proof.Machine

/-!
SUPPORT. What holds of a step whatever it does (60_exceptions.md): it uses up one input, it leaves alone each codec
that the input is no edge of, and it has a next state where the inputs are definite.
-/

namespace Sys2Proof.Machine

section CodecsApart

/-- The codec whose clock an input drives (60_exceptions.md R232); an evaluation drives none. -/
def Input.clocked : Input → Option Variant
  | .edge v _ _ _ => some v
  | .eval _ _ => none

@[simp] theorem Input.clocked_edge (v : Variant) (rst ready : Bool) (req : Presented) :
    (Input.edge v rst ready req).clocked = some v := rfl
@[simp] theorem Input.clocked_eval (f : Format) (bits : Nat) : (Input.eval f bits).clocked = none := rfl

variable {T : Tables} {s t : State}

/-- 60_exceptions.md R232: a step reaches no codec but the one whose clock its input drives. -/
theorem Stepped.unchanged_of_not_clocked (hst : Stepped T s t) {w : Variant}
    (hw : s.env.inputs.head?.bind Input.clocked ≠ some w) : t.codec w = s.codec w ∧ t.taken w = s.taken w := by
  have other {v : Variant} {rst ready : Bool} {req : Presented} {rest : List Input}
      (hin : s.env.inputs = .edge v rst ready req :: rest) : w ≠ v := by
    rintro rfl
    simp [hin] at hw
  cases hst with
  | idle _ heq => exact heq ▸ ⟨rfl, rfl⟩
  | reset v ready req rest hin heq => simp [heq, other hin]
  | deliver v ready rest hin heq => simp [heq, other hin]
  | request v ready bits rest hin _ heq => simp [heq, other hin]
  | busy v rest _ _ heq => simp [heq]
  | evaluated f bits rest x _ _ heq => simp [heq]

end CodecsApart

section Progress
variable {T : Tables} {run : Instr → State → Host.Outcome State Fault Refusal} {s t : State}

/-- Every step uses up the input it takes, and no other. -/
theorem Stepped.inputs_eq_tail (hst : Stepped T s t) : t.env.inputs = s.env.inputs.tail := by
  cases hst with
  | idle hin heq => rw [heq, hin, List.tail_nil]
  | reset v ready req rest hin heq => simp [heq, hin]
  | deliver v ready rest hin heq => simp [heq, hin]
  | request v ready bits rest hin _ heq => simp [heq, hin]
  | busy v rest hin _ heq => simp [heq, hin]
  | evaluated f bits rest x hin _ heq => simp [heq, hin]

/-- The inputs that a step leaves are of the kind they were. -/
theorem Stepped.hostOk (hst : Stepped T s t) (hok : HostOk s) : HostOk t := fun x hx =>
  hok x (List.mem_of_mem_tail (hst.inputs_eq_tail ▸ hx))

/-- 60_exceptions.md R234, R235: a step has no next state only where a word does not fit its ports or a port that is
read is indefinite. -/
theorem Runs.takeNext_progress (hr : Runs T run) (hok : HostOk s) : ∃ t, takeNext run s = .next t := by
  cases hin : s.env.inputs with
  | nil => exact ⟨s, takeNext_of_idle hin⟩
  | cons x rest =>
    have hx : InputOk x := hok x (hin ▸ List.mem_cons_self)
    cases x with
    | eval f bits =>
      obtain ⟨y, hy⟩ := hr.takeNext_of_eval hin hx
      exact ⟨_, hy⟩
    | edge v rst ready req =>
      cases rst with
      | true => exact ⟨_, takeNext_of_reset hin⟩
      | false =>
        cases req with
        | none => exact ⟨_, takeNext_of_deliver hin⟩
        | word bits => exact ⟨_, hr.takeNext_of_word hin hx⟩
        | indefinite => exact hx.elim

end Progress

section LengthMismatch

/-- 60_exceptions.md R221: a DECODE of another declared length is answered with `LengthMismatch`. -/
theorem exec_decode_of_length_ne {v : Variant} {r : ReqOperands v.width} (h : r.len.toNat ≠ vecLen v.width)
    (s : State) : exec (.decode v r) s = .next (s.accept v (raiseLengthMismatch v.width)) := by
  rw [exec_decode, respondDecode_of_length_ne _ h]

end LengthMismatch

end Sys2Proof.Machine

/-!
PROOFS. The statements about errors and about what a step never does (60_exceptions.md).
-/

namespace Sys2Proof.Machine

/-- Settles O45: a definite input is taken, and the inputs after it are definite as they were. -/
theorem definiteInputsNeverStop : Obligations.DefiniteInputsNeverStop := by
  intro s hok
  obtain ⟨t, hstep⟩ := exec_runs.takeNext_progress hok
  exact ⟨t, hstep, (step_cases hstep).hostOk hok⟩

/-- Settles O47: an edge drives the clock of one codec, an evaluation drives none. -/
theorem instancesIndependent : Obligations.InstancesIndependent := by
  refine ⟨fun s t v w rst ready req rest hin hstep hw => ?edge, fun s t f bits rest hin hstep w => ?eval⟩
  case edge => exact (step_cases hstep).unchanged_of_not_clocked (by simpa [hin] using hw.symm)
  case eval => exact (step_cases hstep).unchanged_of_not_clocked (by simp [hin])

/-- Settles O26: the ready codec holds the error response; the error is answered as any request is. -/
theorem wrongLengthAnswered : Obligations.WrongLengthAnswered := by
  intro v r s hready hlen
  have hcodec := stateAccept_codec_of_ready hready (raiseLengthMismatch v.width)
  have hframe := stateAccept_frame_of_ready hready (raiseLengthMismatch v.width)
  refine ⟨s.accept v (raiseLengthMismatch v.width), exec_decode_of_length_ne hlen s, ?_⟩
  rw [hcodec]
  exact ⟨rfl, rfl, hframe⟩

/-- Settles O56: with no input there is nothing to take. -/
theorem idleStepChangesNothing : Obligations.IdleStepChangesNothing := fun _ => takeNext_of_idle

end Sys2Proof.Machine

/-!
SUPPORT. Reset, stalls and refusals (70_reset_and_hazards.md): the inputs for which a step has no next state, and a
request held at edges at which the host does not take the waiting response.
-/

namespace Sys2Proof.Machine

section Refusals
variable {run : Instr → State → Host.Outcome State Fault Refusal} {s : State} {v : Variant} {ready : Bool}
  {rest : List Input} {bits : Nat}

/-- 30_encoding.md R86: a word with a 1 beyond the ports of its format runs no instruction. -/
theorem runWord_of_not_fits {w : Word} (h : ¬ WordFits w) (s : State) : runWord run w s = .refused .noSuchPort := by
  cases hdec : decodeWord w with
  | ok i =>
    obtain ⟨hfits, -⟩ := decodeWord_eq_ok_iff.1 hdec
    exact absurd hfits h
  | error e => simp only [runWord, hdec]

theorem takeNext_of_word_not_fits (hin : s.env.inputs = .edge v false ready (.word bits) :: rest)
    (h : ¬ WordFits (.request v bits)) : takeNext run s = .refused .noSuchPort := by
  simp only [takeNext, hin, takeInput, clockEdge, Bool.false_eq_true, if_false, runWord_of_not_fits h]

theorem takeNext_of_eval_not_fits {f : Format} (hin : s.env.inputs = .eval f bits :: rest)
    (h : ¬ WordFits (.plain f bits)) : takeNext run s = .refused .noSuchPort := by
  simp only [takeNext, hin, takeInput, runWord_of_not_fits h]

/-- 47_transaction_interface.md R205: without reset, a codec with nothing waiting, or whose host takes what is
waiting, is ready. -/
theorem reqReady_of_ready {valid : Bool} (h : valid = false ∨ ready = true) : reqReady false valid ready = true := by
  rcases h with h | h <;> simp [reqReady, h]

/-- 93_implementation_defined.md I13: an indefinite port at the edge that would read it is outside the model. -/
theorem takeNext_of_indefinite (hin : s.env.inputs = .edge v false ready .indefinite :: rest)
    (hready : (s.codec v).respValid = false ∨ ready = true) : takeNext run s = .refused .indefiniteInput := by
  simp only [takeNext, hin, takeInput, clockEdge, Bool.false_eq_true, if_false, withRespReady_codec,
    withInputs_codec, withRespReady_respReady, reqReady_of_ready hready, if_true]

end Refusals

section Stalls
variable {s : State} {v : Variant} {q : Request v.width} {rest : List Input}

/-- 70_reset_and_hazards.md R258: a request at an edge that leaves a response waiting is not accepted; the edge uses
up its input, and that is all. -/
theorem step_of_stalled
    (hin : s.env.inputs = .edge v false false (.word (reqWord q.op q.operands).toNat) :: rest)
    (hvalid : (s.codec v).respValid = true) : step s = .next ((s.withInputs rest).withRespReady false) := by
  have hstep := exec_runs.takeNext_request hin
  rwa [stateAccept_of_busy _ _ _ (by simpa using hvalid) rfl] at hstep

/-- 70_reset_and_hazards.md R254, R258: however long the host stalls, the run goes on from the same codecs, with
nothing taken meanwhile. -/
theorem run_stalled (k : Nat) (hvalid : (s.codec v).respValid = true)
    (hin : s.env.inputs =
      List.replicate k (.edge v false false (.word (reqWord q.op q.operands).toNat)) ++ rest) :
    ∃ u : State, (∀ m, Sys2Proof.core.run (k + m) s = Sys2Proof.core.run m u) ∧ u.env.inputs = rest ∧
      ∀ w, u.codec w = s.codec w ∧ u.taken w = s.taken w := by
  induction k generalizing s with
  | zero => exact ⟨s, fun m => by rw [Nat.zero_add], hin, fun w => ⟨rfl, rfl⟩⟩
  | succ k ih =>
    rw [List.replicate_succ, List.cons_append] at hin
    have hstep := step_of_stalled hin hvalid
    obtain ⟨u, hrun, hinputs, hsame⟩ := ih (s := (s.withInputs _).withRespReady false)
      (by simpa using hvalid) rfl
    refine ⟨u, fun m => ?_, hinputs, by simpa using hsame⟩
    rw [Nat.succ_add]
    exact (run_succ_of_next Sys2Proof.core (k + m) s _ hstep).trans (hrun m)

end Stalls

end Sys2Proof.Machine

/-!
PROOFS. The statements about reset and hazards (70_reset_and_hazards.md).
-/

namespace Sys2Proof.Machine

/-- Settles O50: the stalled edges change neither codec, and the edge after them takes the waiting response and
accepts the request. -/
theorem heldRequestAccepted : Obligations.HeldRequestAccepted := by
  intro v q k s hvalid hin
  obtain ⟨u, hrun, hinputs, hsame⟩ := run_stalled k hvalid hin
  obtain ⟨hcodec, htaken⟩ := hsame v
  obtain ⟨t, hstep, hcodec', htaken', -, hinputs', -⟩ := exec_runs.takeNext_request_of_ready hinputs (.inr rfl)
  refine ⟨t, ?run, hinputs', by rw [hcodec'], by rw [hcodec'], ?taken⟩
  case run => exact (hrun 1).trans (run_succ_of_next Sys2Proof.core 0 u t hstep)
  case taken => rw [htaken', hcodec, htaken, if_pos hvalid]

/-- Settles O41: the edge is `State.resetEdge` whatever is presented, which writes `RESP_VALID` of one codec. -/
theorem resetEdgeClears : Obligations.ResetEdgeClears := by
  intro s v ready req rest hin
  refine ⟨_, takeNext_of_reset hin, ?codec, by simp, fun w hw => by simp [hw], by simp, by simp⟩
  case codec => rw [stateReset_codec_self, withRespReady_codec, withInputs_codec, Codec.resetEdge]

/-- Settles O44: an indefinite port is refused where it is read and else not looked at; a word that does not fit its
ports is never decoded. -/
theorem refusedInputs : Obligations.RefusedInputs := by
  refine ⟨fun s v ready rest hin => ⟨takeNext_of_indefinite hin, ?busy⟩,
    fun s v ready bits rest hin hbits => takeNext_of_word_not_fits hin (Nat.not_lt.2 hbits),
    fun s f bits rest hin hbits => takeNext_of_eval_not_fits hin (Nat.not_lt.2 hbits)⟩
  case busy =>
    rintro ⟨hvalid, rfl⟩
    exact ⟨_, takeNext_of_busy hin hvalid, by simp⟩

end Sys2Proof.Machine
